-- ==== Sys2Proof/Word.lean ====
section
/-! DEFINITION. Word.lean: the values the block handles (bytes, hex digits, register addresses, tags, milliseconds),
the Frame record (R100), and the words its ports and internal links carry (`30_encoding.md` section 6, R33 to R38). -/

namespace Sys2Proof

/-- A byte, 8 bits (R9). -/
abbrev Byte := BitVec 8

/-- The value of one hex digit, 0 to 15 (R22). -/
abbrev Nibble := BitVec 4

/-- A RegisterAddress, "16-bit unsigned identifier of a device register" (R50). -/
abbrev Addr := BitVec 16

/-- The host's opaque handle, a `W_TAG`-bit unsigned value (R27): `W_TAG` is a parameter, so a number below
2^`W_TAG` (log 4). -/
abbrev Tag := Nat

/-- A value of the millisecond counter, `W_TIME` bits unsigned (R30): a number below 2^`W_TIME` (log 4). -/
abbrev Time := Nat

/-- A Frame without its checksum, which "is a function of the other fields" (R100). -/
structure Frame where
  cmd     : Byte
  address : Addr
  flags   : Byte
  payload : List Byte
deriving DecidableEq, Repr

/-- One word at a port or internal link of the block; the encoded form of an operation of R70. -/
inductive PortWord where
  /-- `rst` asserted (R32). -/
  | rst
  /-- `rx_valid = 1` with `rx_data` (R33). -/
  | rx (data : Byte)
  /-- `tick = 1` (R38). -/
  | tick
  /-- `req_valid = 1` with `req_op`, `req_addr`, `req_len`, `req_data`, `req_tag` (R35). -/
  | req (op : BitVec 2) (addr : Addr) (len : BitVec 6) (data : BitVec 256) (tag : Nat)
  /-- `tx_ready = 1` (R34). -/
  | txReady
  /-- A binary frame the engine hands to the encoder (R71, R144); a link inside the block. -/
  | sent (bytes : List Byte)
  /-- A binary frame the decoder hands to the engine (R71, R160); a link inside the block. -/
  | received (bytes : List Byte)
  /-- A call of the codec function `encode(frame)` (R70, R102). -/
  | encode (cmd : Byte) (address : Addr) (flags : Byte) (payload : List Byte)
deriving DecidableEq, Repr

/-- The words of the host request port (R35). -/
def PortWord.isRequest : PortWord → Bool
  | .req .. => true
  | _ => false

end Sys2Proof
end

