-- ==== Sys2Proof/Config.lean ====
section
/-! DEFINITION. Config.lean: the static parameters of R5, R6 and R7, their constraints (R232), the sizes derived
from them (R8), and the free values of port lines the spec leaves unspecified (U10). -/

namespace Sys2Proof

/-- The block's static parameters (R31): "inputs of the model fixed before reset; no event reads a different value
later". They are a field of State that no event writes, so that a claim quantifies over them (log 1). -/
structure Config where
  /-- `MAX_PAYLOAD` (R5). -/
  maxPayload  : Nat
  /-- `MAX_ATTEMPTS` (R5). -/
  maxAttempts : Nat
  /-- `TIMEOUT_MS` (R5). -/
  timeoutMs   : Nat
  /-- `TICK_MS` (R6). -/
  tickMs      : Nat
  /-- `CMD_GET` (R6). -/
  cmdGet      : Byte
  /-- `CMD_SET` (R6). -/
  cmdSet      : Byte
  /-- `CMD_ACK` (R6). -/
  cmdAck      : Byte
  /-- `CMD_NAK` (R6). -/
  cmdNak      : Byte
  /-- `CMD_ERR` (R6). -/
  cmdErr      : Byte
  /-- `REQ_FLAGS` (R6). -/
  reqFlags    : Byte
  /-- `W_TIME` (R6). -/
  wTime       : Nat
  /-- `W_TAG` (R6). -/
  wTag        : Nat
  /-- `Q_DEPTH` (R7), which the spec leaves open. -/
  qDepth      : Nat
deriving DecidableEq, Repr

namespace Config

/-- The values R5 states and the defaults R6 gives. `Q_DEPTH` is OPEN (R7): 4 is the value of the spec's examples
(DESIGN CHOICE, log 1). -/
def spec : Config :=
  { maxPayload := 32, maxAttempts := 3, timeoutMs := 500, tickMs := 1
    cmdGet := 0x07, cmdSet := 0x08, cmdAck := 0x01, cmdNak := 0x03, cmdErr := 0x04
    reqFlags := 0x00, wTime := 32, wTag := 8, qDepth := 4 }

/-- `HDR_BYTES` (R8): command_type, address, flags. -/
def hdrBytes : Nat := 4

/-- `MIN_FRAME_BYTES` (R8). -/
def minFrameBytes : Nat := hdrBytes + 1

/-- `MAX_FRAME_BYTES` (R8). -/
def maxFrameBytes (c : Config) : Nat := hdrBytes + c.maxPayload + 1

/-- `MAX_HEX_CHARS` (R8). -/
def maxHexChars (c : Config) : Nat := 2 * c.maxFrameBytes

/-- `MAX_WIRE_BYTES` (R8). -/
def maxWireBytes (c : Config) : Nat := c.maxHexChars + 3

/-- `MIN_WIRE_BYTES` (R8). -/
def minWireBytes : Nat := 2 * minFrameBytes + 3

/-- `TIMEOUT_MS / TICK_MS`, the threshold of R166. -/
def timeoutTicks (c : Config) : Nat := c.timeoutMs / c.tickMs

/-- The data lanes of the request and completion ports: `req_data` and `cpl_data` are 32 bytes (R35, R36). -/
def dataLanes : Nat := 32

/-- The five `CMD_*` values "must be pairwise distinct" (R6, R232). -/
abbrev CodesDistinct (c : Config) : Prop :=
  [c.cmdGet, c.cmdSet, c.cmdAck, c.cmdNak, c.cmdErr].Nodup

/-- What R232 (1) asks of the parameters, and that a payload fits the 32 data lanes of the ports (DEDUCED, log 5). -/
abbrev Valid (c : Config) : Prop :=
  c.CodesDistinct ∧ 1 ≤ c.qDepth ∧ 1 ≤ c.maxAttempts ∧ c.timeoutMs % c.tickMs = 0 ∧ 2 ≤ c.timeoutTicks ∧
    c.maxPayload ≤ dataLanes

/-- A free value: what lane `lane` of an output line carries at occasion `k` where the spec leaves it unspecified
(U10: "any value"). No body: nothing can be proved about it (log 3). -/
opaque freeByte (k lane : Nat) : Byte

/-- A free value for the `cpl_tag` lines at occasion `k`, of any size: the lines take its low `W_TAG` bits (U10, log 3).
No body, like `freeByte`. -/
opaque freeTag (k : Nat) : Nat

end Config
end Sys2Proof
end

