-- ==== Sys2Proof/Syntax.lean ====
section
/-! DEFINITION. Syntax.lean: the block's operations (R70), one constructor for each of the 24 rows of
`opcode_table.json`, in the table's order. -/

namespace Sys2Proof

/-- The operations that stand where an instruction set would (R70). -/
inductive Instr where
  /-- Row `GET`: the GET request frame for a register, sent by the block (R91, R105). -/
  | get (address : Addr)
  /-- Row `SET`: the SET request frame with its value bytes, sent by the block (R92, R105). -/
  | set (address : Addr) (payload : List Byte)
  /-- Row `ACK`: a positive response frame received (R93, R162). -/
  | ack (address : Addr) (flags : Byte) (payload : List Byte)
  /-- Row `NAK`: a negative response frame received (R93, R163). -/
  | nak (address : Addr) (flags : Byte) (payload : List Byte)
  /-- Row `ERR`: an error response frame received (R93, R164). -/
  | err (address : Addr) (flags : Byte) (payload : List Byte)
  /-- Row `OTHER`: a received frame of any other command_type (R84, R165). -/
  | other (cmd : Byte) (address : Addr) (flags : Byte) (payload : List Byte)
  /-- Row `REQ_NONE`: a request-port handshake with `req_op = 0` (R86). -/
  | reqNone
  /-- Row `REQ_GET` (R140). -/
  | reqGet (address : Addr) (tag : Tag)
  /-- Row `REQ_SET` (R141): `data` is the 32 byte lanes of `req_data`, of which the first `len` are used. -/
  | reqSet (address : Addr) (len : BitVec 6) (data : List Byte) (tag : Tag)
  /-- Row `CANCEL` (R143). -/
  | cancel (tag : Tag)
  /-- Row `FEED.COLON`, byte 0x3A (R121). -/
  | feedColon
  /-- Row `FEED.TERM`, byte 0x0D (R125). -/
  | feedCr
  /-- Row `FEED.TERM`, byte 0x0A (R125). -/
  | feedLf
  /-- Row `FEED.HEXDIGIT`, match 0x30 mask 0xF8: `0` to `7` (R123). -/
  | feedHex07 (k : BitVec 3)
  /-- Row `FEED.HEXDIGIT`, match 0x38 mask 0xFE: `8` and `9` (R123). -/
  | feedHex89 (k : BitVec 1)
  /-- Row `FEED.HEXDIGIT`, 0x41: `A` (R123). -/
  | feedHexA
  /-- Row `FEED.HEXDIGIT`, match 0x42 mask 0xFE: `B` and `C` (R123). -/
  | feedHexBC (k : BitVec 1)
  /-- Row `FEED.HEXDIGIT`, match 0x44 mask 0xFE: `D` and `E` (R123). -/
  | feedHexDE (k : BitVec 1)
  /-- Row `FEED.HEXDIGIT`, 0x46: `F` (R123). -/
  | feedHexF
  /-- Row `FEED.OTHER`: every byte no other row matches (R124). -/
  | feedOther (b : Byte)
  /-- Row `TX_BYTE` (R106). -/
  | txByte
  /-- Row `TICK` (R166). -/
  | tick
  /-- Row `RESET` (R230). -/
  | reset
  /-- Row `ENCODE`, the codec function `encode(frame)` (R102). -/
  | encode (frame : Frame)
deriving DecidableEq, Repr

end Sys2Proof
end

