-- ==== Sys2Proof/WellFormed.lean ====
section
/-! DEFINITION. WellFormed.lean: which operand values the encodings of `30_encoding.md` admit, for given parameters. -/

namespace Sys2Proof

/-- A byte of class OTHER, written from the table of R82: neither `:`, CR, LF, `0` to `9` nor `A` to `F`. -/
def Byte.isOther (b : Byte) : Bool :=
  b != 0x3A && b != 0x0D && b != 0x0A && !(0x30 ≤ b.toNat && b.toNat ≤ 0x39) && !(0x41 ≤ b.toNat && b.toNat ≤ 0x46)

/-- The payload limit of a frame (R71, R81). -/
def Config.payloadFits (c : Config) (payload : List Byte) : Bool := payload.length ≤ c.maxPayload

/-- A command_type that is none of the three response kinds (R84). -/
def Config.notResponse (c : Config) (cmd : Byte) : Bool := cmd != c.cmdAck && cmd != c.cmdNak && cmd != c.cmdErr

/-- A tag of `W_TAG` bits (R27, R35). -/
def Config.tagFits (c : Config) (tag : Tag) : Bool := tag < 2 ^ c.wTag

/-- Every operand has a value its encoding admits. `ENCODE` takes any Frame: one that is too long gives its error
(R103). -/
def Instr.wf (c : Config) : Instr → Bool
  | .get _ => true
  | .set _ payload => c.payloadFits payload
  | .ack _ _ payload => c.payloadFits payload
  | .nak _ _ payload => c.payloadFits payload
  | .err _ _ payload => c.payloadFits payload
  | .other cmd _ _ payload => c.notResponse cmd && c.payloadFits payload
  | .reqNone => true
  | .reqGet _ tag => c.tagFits tag
  | .reqSet _ _ data tag => data.length == Config.dataLanes && c.tagFits tag
  | .cancel tag => c.tagFits tag
  | .feedColon => true
  | .feedCr => true
  | .feedLf => true
  | .feedHex07 _ => true
  | .feedHex89 _ => true
  | .feedHexA => true
  | .feedHexBC _ => true
  | .feedHexDE _ => true
  | .feedHexF => true
  | .feedOther b => Byte.isOther b
  | .txByte => true
  | .tick => true
  | .reset => true
  | .encode _ => true

end Sys2Proof
end

