-- ==== Sys2Proof/Decode.lean ====
section
/-! DEFINITION. Decode.lean: the binary frame (R71 to R76), the byte classes (R82), the request port record (R86), the
decoder from port words to operations and, after it, the encoder. -/

namespace Sys2Proof

/-! ## The binary frame -/

/-- The sum of the unsigned byte values, before reduction (R101). -/
def sumBytes (bs : List Byte) : Nat := (bs.map BitVec.toNat).sum

/-- `Checksum` (R101). -/
def checksum (bs : List Byte) : Byte := BitVec.ofNat 8 ((256 - sumBytes bs % 256) % 256)

/-- `address[7:0]` (R71). -/
def addrLow (a : Addr) : Byte := a.extractLsb' 0 8

/-- `address[15:8]` (R71). -/
def addrHigh (a : Addr) : Byte := a.extractLsb' 8 8

/-- The bytes the checksum covers: command_type, address low byte first, flags, payload (R71). -/
def frameHead (f : Frame) : List Byte := f.cmd :: addrLow f.address :: addrHigh f.address :: f.flags :: f.payload

/-- The binary frame of `n + 5` bytes (R71). -/
def frameBytes (f : Frame) : List Byte := frameHead f ++ [checksum (frameHead f)]

/-- The fields of a binary frame at the byte positions R126 reads them from. -/
def frameFields (bs : List Byte) : Frame :=
  { cmd := bs.getD 0 0
    address := BitVec.ofNat 16 ((bs.getD 1 0).toNat + 256 * (bs.getD 2 0).toNat)
    flags := bs.getD 3 0
    payload := (bs.drop 4).dropLast }

/-- Why a port word is no operation. -/
inductive DecodeError where
  /-- Fewer than `MIN_FRAME_BYTES` bytes (R81). -/
  | frameTooShort
  /-- More than `MAX_FRAME_BYTES` bytes (R81). -/
  | frameTooLong
  /-- The byte sum is not 0 modulo 256 (R76). -/
  | frameChecksum
  /-- A frame the block never sends: its command_type is neither `CMD_GET` nor `CMD_SET`, its flags are not
  `REQ_FLAGS`, or it is a GET with a payload (R91, R92). -/
  | frameNotSent
deriving DecidableEq, Repr

/-- The Frame in a binary frame, with the tests of R81 and R76. -/
def parseFrame (c : Config) (bs : List Byte) : Except DecodeError Frame :=
  if bs.length < Config.minFrameBytes then .error .frameTooShort
  else if c.maxFrameBytes < bs.length then .error .frameTooLong
  else if sumBytes bs % 256 ≠ 0 then .error .frameChecksum
  else .ok (frameFields bs)

/-- The frames the block sends (R91, R92). -/
def decodeSent (c : Config) (f : Frame) : Except DecodeError Instr :=
  if f.flags ≠ c.reqFlags then .error .frameNotSent
  else if f.cmd = c.cmdGet then (if f.payload = [] then .ok (.get f.address) else .error .frameNotSent)
  else if f.cmd = c.cmdSet then .ok (.set f.address f.payload)
  else .error .frameNotSent

/-- The kinds of received frames by command_type, everything else being OTHER (R84). -/
def decodeReceived (c : Config) (f : Frame) : Instr :=
  if f.cmd = c.cmdAck then .ack f.address f.flags f.payload
  else if f.cmd = c.cmdNak then .nak f.address f.flags f.payload
  else if f.cmd = c.cmdErr then .err f.address f.flags f.payload
  else .other f.cmd f.address f.flags f.payload

/-! ## Received bytes -/

/-- The classes of R82. -/
inductive ByteClass where
  | colon
  | hexDigit
  | term
  | other
deriving DecidableEq, Repr

/-- The class of a received byte, by the table of R82. -/
def byteClass (b : Byte) : ByteClass :=
  if b = 0x3A then .colon
  else if b = 0x0D ∨ b = 0x0A then .term
  else if (0x30 ≤ b.toNat ∧ b.toNat ≤ 0x39) ∨ (0x41 ≤ b.toNat ∧ b.toNat ≤ 0x46) then .hexDigit
  else .other

/-- `HexVal` (R82): `b - 0x30` when `b <= 0x39` and `b - 0x37` otherwise. -/
def hexVal (b : Byte) : Nibble := BitVec.ofNat 4 (if b.toNat ≤ 0x39 then b.toNat - 0x30 else b.toNat - 0x37)

/-- Row match 0x30 mask 0xF8. -/
def hexByte07 (k : BitVec 3) : Byte := (0b00110 : BitVec 5) ++ k

/-- Row match 0x38 mask 0xFE. -/
def hexByte89 (k : BitVec 1) : Byte := (0b0011100 : BitVec 7) ++ k

/-- Row match 0x42 mask 0xFE. -/
def hexByteBC (k : BitVec 1) : Byte := (0b0100001 : BitVec 7) ++ k

/-- Row match 0x44 mask 0xFE. -/
def hexByteDE (k : BitVec 1) : Byte := (0b0100010 : BitVec 7) ++ k

/-- The row of the table a received byte selects (`rx_byte` rows, R82). -/
def decodeByte (b : Byte) : Instr :=
  if b = 0x3A then .feedColon
  else if b = 0x0D then .feedCr
  else if b = 0x0A then .feedLf
  else if b.extractLsb' 3 5 = 0b00110 then .feedHex07 (b.extractLsb' 0 3)
  else if b.extractLsb' 1 7 = 0b0011100 then .feedHex89 (b.extractLsb' 0 1)
  else if b = 0x41 then .feedHexA
  else if b.extractLsb' 1 7 = 0b0100001 then .feedHexBC (b.extractLsb' 0 1)
  else if b.extractLsb' 1 7 = 0b0100010 then .feedHexDE (b.extractLsb' 0 1)
  else if b = 0x46 then .feedHexF
  else .feedOther b

/-! ## The request port record -/

/-- Data byte `k` is `req_data[8k+7:8k]` (R35). -/
def dataLane (data : BitVec 256) (k : Nat) : Byte := data.extractLsb' (8 * k) 8

/-- The 32 data bytes of the request port. -/
def unpackData (data : BitVec 256) : List Byte := (List.range Config.dataLanes).map (dataLane data)

/-- The number whose byte `k` is element `k`. -/
def packNat : List Byte → Nat
  | [] => 0
  | b :: bs => b.toNat + 256 * packNat bs

/-- The 256 data lines that carry these bytes. -/
def packData (bs : List Byte) : BitVec 256 := BitVec.ofNat 256 (packNat bs)

/-- The operation `req_op` selects and the fields it uses (R86); `req_tag` is `req_tag[W_TAG-1:0]` (log 14). -/
def decodeReq (c : Config) (op : BitVec 2) (addr : Addr) (len : BitVec 6) (data : BitVec 256) (tag : Nat) : Instr :=
  if op = 0 then .reqNone
  else if op = 1 then .reqGet addr (tag % 2 ^ c.wTag)
  else if op = 2 then .reqSet addr len (unpackData data) (tag % 2 ^ c.wTag)
  else .cancel (tag % 2 ^ c.wTag)

/-! ## Decoder and encoder -/

/-- The operation a port word stands for. Total; only a word on an internal frame link can be rejected. -/
def decode (c : Config) : PortWord → Except DecodeError Instr
  | .rst => .ok .reset
  | .rx data => .ok (decodeByte data)
  | .tick => .ok .tick
  | .req op addr len data tag => .ok (decodeReq c op addr len data tag)
  | .txReady => .ok .txByte
  | .sent bytes => (parseFrame c bytes).bind (decodeSent c)
  | .received bytes => (parseFrame c bytes).map (decodeReceived c)
  | .encode cmd address flags payload => .ok (.encode ⟨cmd, address, flags, payload⟩)

/-- The port word of an operation: R71 for frames, R82 for received bytes, R86 for requests, R32 to R38 for the
strobes. Request fields an operation does not use are zero. -/
def encode (c : Config) : Instr → PortWord
  | .get address => .sent (frameBytes ⟨c.cmdGet, address, c.reqFlags, []⟩)
  | .set address payload => .sent (frameBytes ⟨c.cmdSet, address, c.reqFlags, payload⟩)
  | .ack address flags payload => .received (frameBytes ⟨c.cmdAck, address, flags, payload⟩)
  | .nak address flags payload => .received (frameBytes ⟨c.cmdNak, address, flags, payload⟩)
  | .err address flags payload => .received (frameBytes ⟨c.cmdErr, address, flags, payload⟩)
  | .other cmd address flags payload => .received (frameBytes ⟨cmd, address, flags, payload⟩)
  | .reqNone => .req 0 0 0 0 0
  | .reqGet address tag => .req 1 address 0 0 tag
  | .reqSet address len data tag => .req 2 address len (packData data) tag
  | .cancel tag => .req 3 0 0 0 tag
  | .feedColon => .rx 0x3A
  | .feedCr => .rx 0x0D
  | .feedLf => .rx 0x0A
  | .feedHex07 k => .rx (hexByte07 k)
  | .feedHex89 k => .rx (hexByte89 k)
  | .feedHexA => .rx 0x41
  | .feedHexBC k => .rx (hexByteBC k)
  | .feedHexDE k => .rx (hexByteDE k)
  | .feedHexF => .rx 0x46
  | .feedOther b => .rx b
  | .txByte => .txReady
  | .tick => .tick
  | .reset => .rst
  | .encode f => .encode f.cmd f.address f.flags f.payload

/-! ## Words numbered as the opcode table numbers them -/

/-- A request-port handshake with `req_op = op` and every other field zero. -/
def requestWord (op : Nat) : PortWord := .req (BitVec.ofNat 2 op) 0 0 0 0

/-- A binary frame whose command_type, address and flags are the bits 7..0, 23..8 and 31..24 of `w`, with an empty
payload and the checksum those bytes determine (R76). -/
def tableFrame (w : Nat) : Frame := ⟨BitVec.ofNat 8 w, BitVec.ofNat 16 (w / 2 ^ 8), BitVec.ofNat 8 (w / 2 ^ 24), []⟩

/-- The word an `nbits`-bit number of the table stands for. The table's rows belong to three ports and their numbers
overlap (0x01 is both `ACK` and `REQ_GET`), so the row that fixes the most bits is taken: first the frame
codes (8 bits fixed), then the two-bit request codes, then received bytes (log 6). Two-bit numbers are requests,
numbers of 9 to 32 bits are frame headers. -/
def tableWord (nbits w : Nat) : Option PortWord :=
  let c := Config.spec
  let f := tableFrame w
  if w ≥ 2 ^ nbits then none
  else if nbits ≤ 2 then some (requestWord w)
  else if nbits ≤ 8 then
    if f.cmd = c.cmdGet ∨ f.cmd = c.cmdSet then some (.sent (frameBytes f))
    else if f.cmd = c.cmdAck ∨ f.cmd = c.cmdNak ∨ f.cmd = c.cmdErr then some (.received (frameBytes f))
    else if w < 4 then some (requestWord w)
    else some (.rx (BitVec.ofNat 8 w))
  else if nbits ≤ 32 then
    if (f.cmd = c.cmdGet ∨ f.cmd = c.cmdSet) ∧ f.flags = c.reqFlags then some (.sent (frameBytes f))
    else some (.received (frameBytes f))
  else none

/-- The operation the decoder reads from an `nbits`-bit number of the opcode table. -/
def decodeTableWord (nbits w : Nat) : Option Instr :=
  match tableWord nbits w with
  | none => none
  | some word =>
    match decode Config.spec word with
    | .ok i => some i
    | .error _ => none

end Sys2Proof
end

