-- ==== Sys2Proof/Machine/State.lean ====
section
/-! DEFINITION. Machine/State.lean: the state tuple of R20 with the records it holds, the output ports of the event
just run (R34 to R37), the model's own fields (log 2, log 3), the reasons a step can stop, and the state after reset. -/

namespace Sys2Proof.Machine

/-- The deframer's stored control states; the document's VALIDATING is the terminator's event (R21). -/
inductive RxState where
  | idle
  | collecting
deriving DecidableEq, Repr

/-- Decoder state `S.rx_state`, `S.rx_nib`, `S.rx_bad` (R21, R22, R23). -/
structure Deframer where
  state : RxState
  nib   : List Nibble
  bad   : Bool
deriving DecidableEq, Repr

/-- The decoder's reset values (R40). -/
def Deframer.idle : Deframer := { state := .idle, nib := [], bad := false }

/-- The result of one received byte (R120); the constructors are the four values of `rx_status` (R89). -/
inductive RxResult where
  | noResult
  | frame (f : Frame)
  | checksumErr
  | malformedErr
deriving DecidableEq, Repr

/-- `t.op` (R27). -/
inductive TxnOp where
  | get
  | set
deriving DecidableEq, Repr

/-- `t.state` (R28). -/
inductive TxnState where
  | queued
  | waiting
  | retryPending
deriving DecidableEq, Repr

/-- A Transaction record (R27). -/
structure Transaction where
  op         : TxnOp
  address    : Addr
  len        : Nat
  data       : List Byte
  tag        : Tag
  state      : TxnState
  issueTime  : Time
  retryCount : Nat
deriving DecidableEq, Repr

/-- `req_status` (R87). -/
inductive ReqStatus where
  | accepted
  | encodeError
deriving DecidableEq, Repr

/-- `cpl_result` (R88). -/
inductive CplResult where
  | ok
  | rejected
  | timeout
deriving DecidableEq, Repr

/-- A completion record (R88). -/
structure Completion where
  tag     : Tag
  result  : CplResult
  rspType : Byte
  flags   : Byte
  len     : Nat
  data    : List Byte
deriving DecidableEq, Repr

/-- What the codec function `encode(frame)` returns (R102, R103). -/
inductive EncodeResult where
  | bytes (w : List Byte)
  | encodeError
deriving DecidableEq, Repr

/-- What the output ports show in the cycle of one event; `none` where the event leaves that port without a valid
value (R35 to R37). -/
structure Outputs where
  reqStatus : Option ReqStatus
  cpl       : Option Completion
  rx        : Option RxResult
  txData    : Option Byte
  /-- The model's own window on the codec function ENCODE, to which the spec gives no port (R219; DESIGN CHOICE,
  log 16). -/
  encoded   : Option EncodeResult
deriving DecidableEq, Repr

/-- No port shows a valid value. -/
def Outputs.quiet : Outputs := { reqStatus := none, cpl := none, rx := none, txData := none, encoded := none }

/-- The outputs after RESET: `cpl_valid` 0 and `rx_status` NONE (R40, log 11). -/
def Outputs.afterReset : Outputs := { Outputs.quiet with rx := some .noResult }

/-- Why the machine could stop with a fault: no way at all, "Nothing halts" (R212). -/
inductive Fault
deriving DecidableEq, Repr

/-- Why a step has no meaning. -/
inductive Refusal where
  /-- Raised by exec for an instruction without a meaning. Safe: nothing is claimed of it. -/
  | notModelled (mnemonic : String)
  /-- Raised by step when the parameters do not meet R232: "the model is defined only for parameters meeting" it,
  treatment `refuse` (U15). Safe. -/
  | invalidConfig
  /-- Raised by step when the next schedule word is a word of an internal frame link that is no frame of that link
  (log 2). No word of a port of the block is ever refused. Safe. -/
  | undecodable (reason : DecodeError)
deriving DecidableEq, Repr

/-- The block's state (R20), its parameters (R31), its output ports, and the model's own two fields. -/
structure State where
  /-- The static parameters of R31; no event changes them. -/
  config    : Config
  /-- `S.rx_state`, `S.rx_nib`, `S.rx_bad`. -/
  rx        : Deframer
  /-- `S.tx_buf` (R24). -/
  txBuf     : List Byte
  /-- `S.queue` (R26). -/
  queue     : List Transaction
  /-- `S.now` (R30). -/
  now       : Time
  /-- The output ports in the cycle of the event just run. -/
  out       : Outputs
  /-- The model's own: the words the environment and the host present, first one next (log 2). -/
  inputs    : List PortWord
  /-- The model's own: index of the free values of unspecified port lines (log 3). -/
  freeIndex : Nat
deriving DecidableEq, Repr

/-- The machine right after reset (R40), with the default parameters (R5, R6; `Q_DEPTH` DESIGN CHOICE, log 1) and
nothing scheduled. -/
def State.reset : State :=
  { config := Config.spec
    rx := Deframer.idle
    txBuf := []
    queue := []
    now := 0
    out := Outputs.afterReset
    inputs := []
    freeIndex := 0 }

end Sys2Proof.Machine
end

