-- ==== Sys2Proof/Machine/Flags.lean ====
section
/-! DEFINITION. Machine/Flags.lean: the block's single-bit conditions (R42), stored and derived, and the tests the
engine makes on them. -/

namespace Sys2Proof.Machine

/-- `S.rx_bad` after `:`, a terminator or reset (R23, R121, R125). -/
def rxBadCleared : Bool := false

/-- The collector is full (R123). -/
def collectorFull (c : Config) (nib : List Nibble) : Bool := c.maxHexChars ≤ nib.length

/-- `S.rx_bad` after a hex digit: set when the collector is already full, else unchanged (R23, R123). -/
def rxBadAfterDigit (c : Config) (nib : List Nibble) (bad : Bool) : Bool := bad || collectorFull c nib

/-- `S.rx_bad` after a byte of class OTHER (R124). -/
def rxBadAfterOther : Bool := true

/-- `wire_busy` (R25): `|S.tx_buf| > 0`. -/
def wireBusy (s : State) : Bool := 0 < s.txBuf.length

/-- `req_ready` for the operation code presented: 1 exactly when there is room or `req_op` is CANCEL (R35). -/
def reqReady (s : State) (op : BitVec 2) : Bool := s.queue.length < s.config.qDepth || op == 3

/-- A transaction that wants its frame sent: state QUEUED or RETRY_PENDING (R144). -/
def Transaction.wantsToSend (t : Transaction) : Bool := t.state == .queued || t.state == .retryPending

/-- A transaction that a received frame can match: transmitted at least once (R28, R160). -/
def Transaction.outstanding (t : Transaction) : Bool := t.state == .waiting || t.state == .retryPending

/-- `(now - since) mod 2^W_TIME` (R30, R166). -/
def elapsed (c : Config) (now since : Time) : Nat := (now + (2 ^ c.wTime - since % 2 ^ c.wTime)) % 2 ^ c.wTime

/-- The attempt's timer has run out (R166): state WAITING and the elapsed ticks have reached
`TIMEOUT_MS / TICK_MS`. -/
def timedOut (c : Config) (now : Time) (t : Transaction) : Bool :=
  t.state == .waiting && decide (c.timeoutTicks ≤ elapsed c now t.issueTime)

/-- Another attempt remains after this timeout: `retry_count + 1 < MAX_ATTEMPTS` (R166). -/
def attemptsLeft (c : Config) (t : Transaction) : Bool := t.retryCount + 1 < c.maxAttempts

end Sys2Proof.Machine
end

