-- ==== Sys2Proof/Machine/Codec.lean ====
section
/-! DEFINITION. Machine/Codec.lean: the frame codec: the wire form and `Encode` (R77, R78, R102), the deframer's five
cases (R120 to R125), `Validate` (R126), and the whole-sequence view `Decode` (R129). -/

namespace Sys2Proof.Machine

/-! ## Encoder -/

/-- `HexChar` (R78): `0x30 + d` for `d <= 9`, `0x37 + d` for `d >= 10`. -/
def hexChar (d : Nibble) : Byte := BitVec.ofNat 8 (if d.toNat ≤ 9 then 0x30 + d.toNat else 0x37 + d.toNat)

/-- `Hex` (R78): the character of bits 7..4, then that of bits 3..0 (R55). -/
def hexPair (b : Byte) : List Byte := [hexChar (b.extractLsb' 4 4), hexChar (b.extractLsb' 0 4)]

/-- The wire form of a Frame (R77): `:`, two characters for each byte of the binary frame, CR, LF. -/
def wireForm (f : Frame) : List Byte := 0x3A :: (frameBytes f).flatMap hexPair ++ [0x0D, 0x0A]

/-- `Encode` (R102), with `EncodeError` exactly when the payload is longer than `MAX_PAYLOAD` (R103). -/
def encodeFrame (c : Config) (f : Frame) : EncodeResult :=
  if c.maxPayload < f.payload.length then .encodeError else .bytes (wireForm f)

/-! ## Decoder -/

/-- The bytes of the collected digits, `16 * nib[2k] + nib[2k+1]` (R126); a last unpaired digit makes no byte. -/
def nibbleBytes : List Nibble → List Byte
  | hi :: lo :: rest => BitVec.ofNat 8 (16 * hi.toNat + lo.toNat) :: nibbleBytes rest
  | _ => []

/-- `Validate` (R126), its tests in the order given there. -/
def validate (nib : List Nibble) (bad : Bool) : RxResult :=
  if bad then .malformedErr
  else if nib.length % 2 = 1 then .malformedErr
  else if nib.length / 2 < Config.minFrameBytes then .malformedErr
  else if sumBytes (nibbleBytes nib) % 256 ≠ 0 then .checksumErr
  else .frame (frameFields (nibbleBytes nib))

namespace Deframer

/-- A `:` in either state (R121). -/
def onColon (_ : Deframer) : Deframer × RxResult :=
  ({ state := .collecting, nib := [], bad := rxBadCleared }, .noResult)

/-- A hex digit: ignored in IDLE (R122), collected in COLLECTING while there is room (R123). -/
def onHexDigit (c : Config) (d : Nibble) (r : Deframer) : Deframer × RxResult :=
  match r.state with
  | .idle => (r, .noResult)
  | .collecting =>
    ({ r with nib := if collectorFull c r.nib then r.nib else r.nib ++ [d], bad := rxBadAfterDigit c r.nib r.bad },
      .noResult)

/-- A byte of class OTHER: ignored in IDLE (R122), marks the line malformed in COLLECTING (R124). -/
def onOther (r : Deframer) : Deframer × RxResult :=
  match r.state with
  | .idle => (r, .noResult)
  | .collecting => ({ r with bad := rxBadAfterOther }, .noResult)

/-- CR or LF: ignored in IDLE (R122), validates in COLLECTING (R125). -/
def onTerm (r : Deframer) : Deframer × RxResult :=
  match r.state with
  | .idle => (r, .noResult)
  | .collecting => ({ state := .idle, nib := [], bad := rxBadCleared }, validate r.nib r.bad)

/-- One received byte: the table of R120. -/
def feed (c : Config) (b : Byte) (r : Deframer) : Deframer × RxResult :=
  match byteClass b with
  | .colon => r.onColon
  | .hexDigit => r.onHexDigit c (hexVal b)
  | .term => r.onTerm
  | .other => r.onOther

/-- The results of a byte sequence, those other than NONE, in order, and the state it leaves. -/
def feedAll (c : Config) : List Byte → Deframer → List RxResult × Deframer
  | [], r => ([], r)
  | b :: bs, r =>
    let p := r.feed c b
    let q := feedAll c bs p.1
    (if p.2 = .noResult then q.1 else p.2 :: q.1, q.2)

end Deframer

/-- `Decode(w)` (R129): the results of `w` from the decoder's reset state, without the engine. -/
def decodeWire (c : Config) (w : List Byte) : List RxResult := (Deframer.idle.feedAll c w).1

end Sys2Proof.Machine
end

