-- ==== Sys2Proof/Machine/Operands.lean ====
section
/-! DEFINITION. Machine/Operands.lean: how an operation's operands become frames, digits, transaction fields and
completion records. -/

namespace Sys2Proof.Machine

/-- `data[0..len-1]`: the data lanes a SET uses, those at or beyond `len` ignored (R141). -/
def usedData (len : BitVec 6) (data : List Byte) : List Byte := data.take len.toNat

/-- The Transaction a `REQ_GET` appends (R140). -/
def getTransaction (address : Addr) (tag : Tag) : Transaction :=
  { op := .get, address := address, len := 0, data := [], tag := tag, state := .queued, issueTime := 0, retryCount := 0 }

/-- The Transaction a `REQ_SET` appends (R141). -/
def setTransaction (address : Addr) (len : BitVec 6) (data : List Byte) (tag : Tag) : Transaction :=
  { op := .set, address := address, len := len.toNat, data := usedData len data, tag := tag, state := .queued
    issueTime := 0, retryCount := 0 }

/-- The GET request frame for an address (R91). -/
def getFrame (c : Config) (address : Addr) : Frame := ⟨c.cmdGet, address, c.reqFlags, []⟩

/-- The SET request frame for an address and value bytes (R92). -/
def setFrame (c : Config) (address : Addr) (payload : List Byte) : Frame := ⟨c.cmdSet, address, c.reqFlags, payload⟩

/-- `FrameOf` (R105): it reads only fields that never change after acceptance. -/
def frameOf (c : Config) (t : Transaction) : Frame :=
  match t.op with
  | .get => getFrame c t.address
  | .set => setFrame c t.address (t.data.take t.len)

/-- The completion record of R169: the response frame's fields, or zeros when there is none. -/
def completionOf (t : Transaction) (result : CplResult) (response : Option Frame) : Completion :=
  match response with
  | some f => { tag := t.tag, result := result, rspType := f.cmd, flags := f.flags, len := f.payload.length, data := f.payload }
  | none => { tag := t.tag, result := result, rspType := 0, flags := 0, len := 0, data := [] }

/-- The unsigned integer a register value's bytes stand for, least significant byte first (R54, R181). -/
def rawValue (bytes : List Byte) : Nat := packNat bytes

end Sys2Proof.Machine
end

