-- ==== Sys2Proof/Machine/Ops.lean ====
section
/-! DEFINITION. Machine/Ops.lean: the shared operations of the engine and the decoder (`TryIssue` R144, `Complete`
R169, `OnFrame` R160, the `RX_BYTE` envelope R120, the timeout of R166), the port updates, and the error results that
stand where exceptions would (R200, R210). -/

namespace Sys2Proof.Machine

namespace State

/-! ## Updates -/

/-- A new event begins: what the ports showed for the last one is gone. -/
def startEvent (s : State) : State := { s with out := Outputs.quiet, freeIndex := s.freeIndex + 1 }

/-- Replaces the decoder state. -/
def withRx (rx : Deframer) (s : State) : State := { s with rx := rx }

/-- Replaces `S.tx_buf`. -/
def withTx (txBuf : List Byte) (s : State) : State := { s with txBuf := txBuf }

/-- Replaces `S.queue`. -/
def withQueue (queue : List Transaction) (s : State) : State := { s with queue := queue }

/-- Replaces `S.now`. -/
def withNow (now : Time) (s : State) : State := { s with now := now }

/-- Replaces the schedule. -/
def withInputs (inputs : List PortWord) (s : State) : State := { s with inputs := inputs }

/-- `emit req_status(st)`. -/
def emitReq (st : ReqStatus) (s : State) : State := { s with out := { s.out with reqStatus := some st } }

/-- `emit cpl(c)`. -/
def emitCpl (c : Completion) (s : State) : State := { s with out := { s.out with cpl := some c } }

/-- Shows the result of a received byte on `rx_status` and `rx_frame` (R120). -/
def emitRx (r : RxResult) (s : State) : State := { s with out := { s.out with rx := some r } }

/-- `emit tx_data(b)`. -/
def emitTx (b : Byte) (s : State) : State := { s with out := { s.out with txData := some b } }

/-- Shows the result of the codec function `encode` in the model's own window (DESIGN CHOICE, log 16). -/
def emitEncoded (r : EncodeResult) (s : State) : State := { s with out := { s.out with encoded := some r } }

end State

/-! ## Engine procedures -/

/-- The head's attempt begins: frame in the transmitter, state WAITING, timer running from `S.now` (R144). -/
def loadHead (h : Transaction) (rest : List Transaction) (w : List Byte) (s : State) : State :=
  (s.withTx w).withQueue ({ h with state := .waiting, issueTime := s.now } :: rest)

/-- `TryIssue` (R144): loads the head's frame as soon as the head wants to send and the wire is free. `Encode` cannot
fail on an accepted transaction (R103); were it to, it would produce no bytes (log 12). -/
def tryIssue (s : State) : State :=
  match s.queue with
  | [] => s
  | h :: rest =>
    if h.wantsToSend && !wireBusy s then
      match encodeFrame s.config (frameOf s.config h) with
      | .bytes w => loadHead h rest w s
      | .encodeError => s
    else s

/-- A request frame leaves the engine: the issue of the head, when it is this very frame that the head wants sent
(R105, R144). Only the engine sends frames (R108), so otherwise nothing is sent (log 7). -/
def sendFrame (f : Frame) (s : State) : State :=
  match s.queue with
  | [] => s
  | h :: _ => if frameOf s.config h = f then tryIssue s else s

/-- `Complete` (R169): emits the completion of the head, removes it, issues the next. -/
def complete (h : Transaction) (result : CplResult) (response : Option Frame) (s : State) : State :=
  tryIssue ((s.emitCpl (completionOf h result response)).withQueue s.queue.tail)

/-- `OnFrame` (R160), its tests in the order given there (R209). -/
def onFrame (f : Frame) (s : State) : State :=
  match s.queue with
  | [] => s
  | h :: _ =>
    if h.state = .queued then s
    else if f.address ≠ h.address then s
    else if f.cmd = s.config.cmdAck then complete h .ok (some f) s
    else if f.cmd = s.config.cmdNak then complete h .rejected (some f) s
    else if f.cmd = s.config.cmdErr then complete h .rejected (some f) s
    else s

/-- The event `RX_BYTE` around one of the deframer's cases (R120): shows the result and hands a frame to the engine.
The two error results are not passed on. -/
def rxEvent (case : Deframer → Deframer × RxResult) (s : State) : State :=
  let p := case s.rx
  let shown := (s.startEvent.withRx p.1).emitRx p.2
  match p.2 with
  | .frame f => onFrame f shown
  | .noResult => shown
  | .checksumErr => shown
  | .malformedErr => shown

/-- Appends a transaction at the tail and issues it if it can go (R140, R141). -/
def enqueue (t : Transaction) (s : State) : State := tryIssue ((s.withQueue (s.queue ++ [t])).emitReq .accepted)

/-- The head's attempt has timed out: another attempt (R167), or the end of the transaction (R168). -/
def headTimeout (h : Transaction) (rest : List Transaction) (s : State) : State :=
  if attemptsLeft s.config h then
    s.withQueue ({ h with retryCount := h.retryCount + 1, state := .retryPending } :: rest)
  else complete h .timeout none s

/-- The timer test of `TICK`, on the new value of `S.now` (R166). -/
def checkTimer (s : State) : State :=
  match s.queue with
  | [] => s
  | h :: rest => if timedOut s.config s.now h then headTimeout h rest s else s

/-- `S.now + 1` modulo 2^`W_TIME` (R30, R166). -/
def nextTime (s : State) : Time := (s.now + 1) % 2 ^ s.config.wTime

/-- The queue without the transactions that carry a tag (R143). -/
def withoutTag (tag : Tag) (queue : List Transaction) : List Transaction := queue.filter (fun t => t.tag != tag)

/-! ## Errors -/

/-- The five errors of R200. -/
inductive BlockError where
  | encodeError
  | malformedFrame
  | checksum
  | deviceTimeout
  | setRejected
deriving DecidableEq, Repr

/-- The error a request status reports (R201). -/
def ReqStatus.error : ReqStatus → List BlockError
  | .accepted => []
  | .encodeError => [.encodeError]

/-- The error a received byte's result reports (R202, R203). -/
def RxResult.error : RxResult → List BlockError
  | .noResult => []
  | .frame _ => []
  | .checksumErr => [.checksum]
  | .malformedErr => [.malformedFrame]

/-- The error a completion reports (R204, R205). -/
def CplResult.error : CplResult → List BlockError
  | .ok => []
  | .rejected => [.setRejected]
  | .timeout => [.deviceTimeout]

/-- The error the codec function reports (R103). -/
def EncodeResult.error : EncodeResult → List BlockError
  | .bytes _ => []
  | .encodeError => [.encodeError]

/-- The errors an event raised, read from its ports (R200). An error is its code on its port and the state change its
rule lists, nothing else (R210). -/
def Outputs.errors (o : Outputs) : List BlockError :=
  o.reqStatus.toList.flatMap ReqStatus.error ++ o.rx.toList.flatMap RxResult.error ++
    o.cpl.toList.flatMap (fun c => c.result.error) ++ o.encoded.toList.flatMap EncodeResult.error

end Sys2Proof.Machine
end

