-- ==== Sys2Proof/Machine/Events.lean ====
section
/-! DEFINITION. Machine/Events.lean: the meanings of TX_BYTE (R106), TICK (R166 to R168) and RESET (R230). -/

namespace Sys2Proof.Machine

/-- TX_BYTE (R106). With `S.tx_buf` empty `tx_valid` is 0 and `tx_ready` alone is no event (R34): nothing changes
(log 8). -/
def execTxByte (s : State) : Host.Outcome State Fault Refusal :=
  .next
    (match s.txBuf with
    | [] => s.startEvent
    | b :: rest => tryIssue ((s.startEvent.emitTx b).withTx rest))

/-- TICK (R166): time advances, the head's timer is tested, a waiting frame is issued. -/
def execTick (s : State) : Host.Outcome State Fault Refusal :=
  .next (tryIssue (checkTimer (s.startEvent.withNow (nextTime s))))

/-- RESET (R230, R40). The parameters are unaffected; the schedule is the environment's, not the block's. -/
def execReset (s : State) : Host.Outcome State Fault Refusal :=
  .next
    { s.startEvent with
      rx := Deframer.idle, txBuf := [], queue := [], now := 0, out := Outputs.afterReset }

end Sys2Proof.Machine
end

