-- ==== Sys2Proof/Machine/Feed.lean ====
section
/-! DEFINITION. Machine/Feed.lean: the meanings of the received-byte rows (R120 to R125). -/

namespace Sys2Proof.Machine

/-- FEED.COLON (R121). -/
def execFeedColon (s : State) : Host.Outcome State Fault Refusal :=
  .next (rxEvent Deframer.onColon s)

/-- FEED.TERM, CR (R125, R122). -/
def execFeedCr (s : State) : Host.Outcome State Fault Refusal :=
  .next (rxEvent Deframer.onTerm s)

/-- FEED.TERM, LF (R125, R122). -/
def execFeedLf (s : State) : Host.Outcome State Fault Refusal :=
  .next (rxEvent Deframer.onTerm s)

/-- FEED.HEXDIGIT, `0` to `7` (R123, R122). -/
def execFeedHex07 (k : BitVec 3) (s : State) : Host.Outcome State Fault Refusal :=
  .next (rxEvent (Deframer.onHexDigit s.config (hexVal (hexByte07 k))) s)

/-- FEED.HEXDIGIT, `8` and `9` (R123, R122). -/
def execFeedHex89 (k : BitVec 1) (s : State) : Host.Outcome State Fault Refusal :=
  .next (rxEvent (Deframer.onHexDigit s.config (hexVal (hexByte89 k))) s)

/-- FEED.HEXDIGIT, `A` (R123, R122). -/
def execFeedHexA (s : State) : Host.Outcome State Fault Refusal :=
  .next (rxEvent (Deframer.onHexDigit s.config (hexVal 0x41)) s)

/-- FEED.HEXDIGIT, `B` and `C` (R123, R122). -/
def execFeedHexBC (k : BitVec 1) (s : State) : Host.Outcome State Fault Refusal :=
  .next (rxEvent (Deframer.onHexDigit s.config (hexVal (hexByteBC k))) s)

/-- FEED.HEXDIGIT, `D` and `E` (R123, R122). -/
def execFeedHexDE (k : BitVec 1) (s : State) : Host.Outcome State Fault Refusal :=
  .next (rxEvent (Deframer.onHexDigit s.config (hexVal (hexByteDE k))) s)

/-- FEED.HEXDIGIT, `F` (R123, R122). -/
def execFeedHexF (s : State) : Host.Outcome State Fault Refusal :=
  .next (rxEvent (Deframer.onHexDigit s.config (hexVal 0x46)) s)

/-- FEED.OTHER (R124, R122): the effect depends on the class alone, not on the byte. -/
def execFeedOther (_b : Byte) (s : State) : Host.Outcome State Fault Refusal :=
  .next (rxEvent Deframer.onOther s)

end Sys2Proof.Machine
end

