-- ==== Sys2Proof/Machine/Frames.lean ====
section
/-! DEFINITION. Machine/Frames.lean: the meanings of the frame rows (GET, SET: log 7; ACK, NAK, ERR, OTHER: log 13)
and of ENCODE. -/

namespace Sys2Proof.Machine

/-- GET: the engine sends the GET frame of its head transaction (R105, R144). -/
def execGet (address : Addr) (s : State) : Host.Outcome State Fault Refusal :=
  .next (sendFrame (getFrame s.config address) s.startEvent)

/-- SET: the engine sends the SET frame of its head transaction (R105, R144). -/
def execSet (address : Addr) (payload : List Byte) (s : State) : Host.Outcome State Fault Refusal :=
  .next (sendFrame (setFrame s.config address payload) s.startEvent)

/-- ACK received (R160, R162). -/
def execAck (address : Addr) (flags : Byte) (payload : List Byte) (s : State) : Host.Outcome State Fault Refusal :=
  .next (onFrame ⟨s.config.cmdAck, address, flags, payload⟩ s.startEvent)

/-- NAK received (R160, R163). -/
def execNak (address : Addr) (flags : Byte) (payload : List Byte) (s : State) : Host.Outcome State Fault Refusal :=
  .next (onFrame ⟨s.config.cmdNak, address, flags, payload⟩ s.startEvent)

/-- ERR received (R160, R164). -/
def execErr (address : Addr) (flags : Byte) (payload : List Byte) (s : State) : Host.Outcome State Fault Refusal :=
  .next (onFrame ⟨s.config.cmdErr, address, flags, payload⟩ s.startEvent)

/-- A frame of any other kind received (R160, R165). -/
def execOther (cmd : Byte) (address : Addr) (flags : Byte) (payload : List Byte) (s : State) :
    Host.Outcome State Fault Refusal :=
  .next (onFrame ⟨cmd, address, flags, payload⟩ s.startEvent)

/-- ENCODE: the codec function, which "reads and writes no state" (R102); its result shows in
the model's own window (log 16). -/
def execEncode (frame : Frame) (s : State) : Host.Outcome State Fault Refusal :=
  .next (s.startEvent.emitEncoded (encodeFrame s.config frame))

end Sys2Proof.Machine
end

