-- ==== Sys2Proof/Machine/Requests.lean ====
section
/-! DEFINITION. Machine/Requests.lean: the meanings of the request-port rows (R86, R140 to R143). While `req_ready` is 0
a request "is simply not taken" (R87): the event does not occur and nothing of the block changes (log 8). -/

namespace Sys2Proof.Machine

/-- REQ_NONE: "changes nothing and returns ACCEPTED" (R86). -/
def execReqNone (s : State) : Host.Outcome State Fault Refusal :=
  .next (if reqReady s 0 then s.startEvent.emitReq .accepted else s.startEvent)

/-- REQ_GET (R140, R142). -/
def execReqGet (address : Addr) (tag : Tag) (s : State) : Host.Outcome State Fault Refusal :=
  .next (if reqReady s 1 then enqueue (getTransaction address tag) s.startEvent else s.startEvent)

/-- REQ_SET (R141, R142), with `EncodeError` when `len > MAX_PAYLOAD` (R201). -/
def execReqSet (address : Addr) (len : BitVec 6) (data : List Byte) (tag : Tag) (s : State) :
    Host.Outcome State Fault Refusal :=
  .next
    (if reqReady s 2 then
      (if s.config.maxPayload < len.toNat then s.startEvent.emitReq .encodeError
        else enqueue (setTransaction address len data tag) s.startEvent)
    else s.startEvent)

/-- CANCEL, always enabled (R143). -/
def execCancel (tag : Tag) (s : State) : Host.Outcome State Fault Refusal :=
  .next (tryIssue ((s.startEvent.withQueue (withoutTag tag s.queue)).emitReq .accepted))

end Sys2Proof.Machine
end

