-- ==== Sys2Proof/Machine/Dispatch.lean ====
section
/-! DEFINITION. Machine/Dispatch.lean: one arm for each operation. -/

namespace Sys2Proof.Machine

def exec (i : Instr) (s : State) : Host.Outcome State Fault Refusal :=
  match i with
  | .get address => Sys2Proof.Machine.execGet address s
  | .set address payload => Sys2Proof.Machine.execSet address payload s
  | .ack address flags payload => Sys2Proof.Machine.execAck address flags payload s
  | .nak address flags payload => Sys2Proof.Machine.execNak address flags payload s
  | .err address flags payload => Sys2Proof.Machine.execErr address flags payload s
  | .other cmd address flags payload => Sys2Proof.Machine.execOther cmd address flags payload s
  | .reqNone => Sys2Proof.Machine.execReqNone s
  | .reqGet address tag => Sys2Proof.Machine.execReqGet address tag s
  | .reqSet address len data tag => Sys2Proof.Machine.execReqSet address len data tag s
  | .cancel tag => Sys2Proof.Machine.execCancel tag s
  | .feedColon => Sys2Proof.Machine.execFeedColon s
  | .feedCr => Sys2Proof.Machine.execFeedCr s
  | .feedLf => Sys2Proof.Machine.execFeedLf s
  | .feedHex07 k => Sys2Proof.Machine.execFeedHex07 k s
  | .feedHex89 k => Sys2Proof.Machine.execFeedHex89 k s
  | .feedHexA => Sys2Proof.Machine.execFeedHexA s
  | .feedHexBC k => Sys2Proof.Machine.execFeedHexBC k s
  | .feedHexDE k => Sys2Proof.Machine.execFeedHexDE k s
  | .feedHexF => Sys2Proof.Machine.execFeedHexF s
  | .feedOther b => Sys2Proof.Machine.execFeedOther b s
  | .txByte => Sys2Proof.Machine.execTxByte s
  | .tick => Sys2Proof.Machine.execTick s
  | .reset => Sys2Proof.Machine.execReset s
  | .encode frame => Sys2Proof.Machine.execEncode frame s

end Sys2Proof.Machine
end

