-- ==== Sys2Proof/Machine/Environment.lean ====
section
/-! DEFINITION. Machine/Environment.lean: how the block comes by its next event: the schedule of port words that stands
for the environment and the host (R11, R195; log 2), with a request held at its port while there is no room (R142). -/

namespace Sys2Proof.Machine

/-- The request at the front waits at the port while one other event passes: it moves behind the first word that is
not on the request port, ahead of every later request. With no such word it stays where it is. -/
def holdRequest (held : List PortWord) : List PortWord → List PortWord
  | [] => held
  | w :: rest => if w.isRequest then holdRequest (held ++ [w]) rest else w :: (held ++ rest)

/-- A word the block does not take now: a request while `req_ready` is 0 (R142). -/
def notTaken (s : State) : PortWord → Bool
  | .req op _ _ _ _ => !reqReady s op
  | _ => false

/-- What the schedule gives the next step. -/
inductive Fetched where
  /-- No word is left: no event occurs. -/
  | idle
  /-- The request at the front is not taken; the schedule that is left. -/
  | held (inputs : List PortWord)
  /-- The front word is a link word that stands for no operation. -/
  | bad (reason : DecodeError)
  /-- The operation of the front word, and the rest of the schedule. -/
  | run (i : Instr) (inputs : List PortWord)
deriving DecidableEq, Repr

/-- Reads the front of the schedule. -/
def fetch (s : State) : Fetched :=
  match s.inputs with
  | [] => .idle
  | w :: rest =>
    if notTaken s w then .held (holdRequest [w] rest)
    else
      match decode s.config w with
      | .ok i => .run i rest
      | .error e => .bad e

/-- Puts the word of an opcode-table number at the front of the schedule; a number that is no word changes nothing. -/
def presentTableWord (s : State) (nbits w : Nat) : State :=
  match tableWord nbits w with
  | some word => s.withInputs (word :: s.inputs)
  | none => s

end Sys2Proof.Machine
end

