-- ==== Sys2Proof/Machine/Step.lean ====
section
/-! DEFINITION. Machine/Step.lean: one step, which is the next event of the schedule. -/

namespace Sys2Proof.Machine

/-- One step: the operation at the front of the schedule, run by `exec` with the schedule moved past it. With nothing
scheduled (log 9), or with a request that is not taken, no event occurs. Parameters outside R232 are refused (U15,
log 15). -/
def step (s : State) : Host.Outcome State Fault Refusal :=
  if s.config.Valid then
    match fetch s with
    | .idle => .next s.startEvent
    | .held inputs => .next (s.startEvent.withInputs inputs)
    | .bad reason => .refused (.undecodable reason)
    | .run i inputs => exec i (s.withInputs inputs)
  else .refused .invalidConfig

/-- `s` with the word of an opcode-table number as the next of its schedule. -/
def State.withFetchWord (s : State) (nbits w : Nat) : State := presentTableWord s nbits w

end Sys2Proof.Machine
end

