-- ==== Sys2Proof/Machine/Cycle.lean ====
section
/-! DEFINITION. Machine/Cycle.lean: sequences of events, and one clock cycle of a clocked implementation with several
inputs asserted (R208), which is one such sequence (log 10). -/

namespace Sys2Proof.Machine

/-- Events one after another, stopping at the first fault or refusal. -/
def runEvents : List Instr → State → Host.Outcome State Fault Refusal
  | [], s => .next s
  | i :: is, s =>
    match exec i s with
    | .next t => runEvents is t
    | .fault r => .fault r
    | .refused r => .refused r

/-- What the ports showed in each event of a sequence, in order. -/
def outputsOf : List Instr → State → List Outputs
  | [], _ => []
  | i :: is, s =>
    match exec i s with
    | .next t => t.out :: outputsOf is t
    | .fault _ => []
    | .refused _ => []

/-- The input pins in one clock cycle (R32 to R38). -/
structure Pins where
  rst     : Bool
  rxValid : Bool
  rxData  : Byte
  tick    : Bool
  reqValid : Bool
  reqOp   : BitVec 2
  reqAddr : Addr
  reqLen  : BitVec 6
  reqData : BitVec 256
  reqTag  : Nat
  txReady : Bool
deriving DecidableEq, Repr

/-- The events of a cycle in the fixed order of R208; `req_ready` and `tx_valid` are those of the state at its start. -/
def cycleEvents (p : Pins) (s : State) : List Instr :=
  if p.rst then [.reset]
  else
    (if p.rxValid then [decodeByte p.rxData] else []) ++
    (if p.tick then [.tick] else []) ++
    (if p.reqValid && reqReady s p.reqOp then [decodeReq s.config p.reqOp p.reqAddr p.reqLen p.reqData p.reqTag] else []) ++
    (if p.txReady && wireBusy s then [.txByte] else [])

/-- The ports of one cycle: each shows what the event that drives it showed. -/
def Outputs.merge (a b : Outputs) : Outputs :=
  { reqStatus := a.reqStatus.or b.reqStatus
    cpl := a.cpl.or b.cpl
    rx := a.rx.or b.rx
    txData := a.txData.or b.txData
    encoded := a.encoded.or b.encoded }

/-- The events of a cycle, the ports merged. -/
def runCycle : List Instr → State → Host.Outcome State Fault Refusal
  | [], s => .next s.startEvent
  | [i], s => exec i s
  | i :: j :: is, s =>
    match exec i s with
    | .next t =>
      match runCycle (j :: is) t with
      | .next u => .next { u with out := t.out.merge u.out }
      | .fault r => .fault r
      | .refused r => .refused r
    | .fault r => .fault r
    | .refused r => .refused r

/-- One clock cycle (R208). -/
def clock (p : Pins) (s : State) : Host.Outcome State Fault Refusal := runCycle (cycleEvents p s) s

end Sys2Proof.Machine
end

