-- ==== Sys2Proof/Machine/Ports.lean ====
section
/-! DEFINITION. Machine/Ports.lean: the output signals of R34 to R37 with the numeric codes of R87 to R89. A line the
spec leaves unspecified in this cycle carries a free value (U10, log 3). -/

namespace Sys2Proof.Machine

/-- `req_status` codes (R87). -/
def ReqStatus.code : ReqStatus → BitVec 2
  | .accepted => 0
  | .encodeError => 1

/-- `cpl_result` codes (R88). -/
def CplResult.code : CplResult → BitVec 2
  | .ok => 0
  | .rejected => 1
  | .timeout => 2

/-- `rx_status` codes (R89). -/
def RxResult.code : RxResult → BitVec 2
  | .noResult => 0
  | .frame _ => 1
  | .checksumErr => 2
  | .malformedErr => 3

/-- The Frame on `rx_frame`, where there is one. -/
def RxResult.frame? : RxResult → Option Frame
  | .frame f => some f
  | .noResult => none
  | .checksumErr => none
  | .malformedErr => none

/-- Byte `k` of an output array of which only the listed bytes are specified; `line` numbers the array's free values. -/
def dataByte (bytes : List Byte) (index line k : Nat) : Byte := bytes.getD k (Config.freeByte index (line + k))

/-- `tx_valid = wire_busy` (R34). -/
def txValid (s : State) : Bool := wireBusy s

/-- `tx_data = S.tx_buf[0]` when `wire_busy`, otherwise unspecified (R34). -/
def txDataPin (s : State) : Byte := dataByte s.txBuf s.freeIndex 32 0

/-- `req_status`, valid in the cycle of the handshake (R35). -/
def reqStatusPins (s : State) : BitVec 2 :=
  match s.out.reqStatus with
  | some st => st.code
  | none => (Config.freeByte s.freeIndex 33).setWidth 2

/-- `cpl_valid` (R36). -/
def cplValid (s : State) : Bool := s.out.cpl.isSome

/-- `cpl_tag` (R36, R88). While `cpl_valid` is 0 all `W_TAG` lines are free (U10, log 3). -/
def cplTagPins (s : State) : Tag :=
  match s.out.cpl with
  | some c => c.tag
  | none => Config.freeTag s.freeIndex % 2 ^ s.config.wTag

/-- `cpl_result` (R88). -/
def cplResultPins (s : State) : BitVec 2 :=
  match s.out.cpl with
  | some c => c.result.code
  | none => (Config.freeByte s.freeIndex 35).setWidth 2

/-- `cpl_rsp_type` (R88). -/
def cplRspTypePins (s : State) : Byte :=
  match s.out.cpl with
  | some c => c.rspType
  | none => Config.freeByte s.freeIndex 36

/-- `cpl_flags` (R88). -/
def cplFlagsPins (s : State) : Byte :=
  match s.out.cpl with
  | some c => c.flags
  | none => Config.freeByte s.freeIndex 37

/-- `cpl_len` (R88). -/
def cplLenPins (s : State) : BitVec 6 :=
  match s.out.cpl with
  | some c => BitVec.ofNat 6 c.len
  | none => (Config.freeByte s.freeIndex 38).setWidth 6

/-- Byte `k` of `cpl_data`; bytes at or beyond `cpl_len` are unspecified (R88). -/
def cplDataPins (s : State) (k : Nat) : Byte :=
  match s.out.cpl with
  | some c => dataByte c.data s.freeIndex 0 k
  | none => Config.freeByte s.freeIndex k

/-- `rx_status`, valid in the cycle of an RX_BYTE event (R37). -/
def rxStatusPins (s : State) : BitVec 2 :=
  match s.out.rx with
  | some r => r.code
  | none => (Config.freeByte s.freeIndex 39).setWidth 2

/-- The Frame shown on `rx_frame`, valid when `rx_status = FRAME` (R37). -/
def rxFrameShown (s : State) : Option Frame := s.out.rx.bind RxResult.frame?

/-- `rx_frame.cmd` (R37). -/
def rxCmdPins (s : State) : Byte :=
  match rxFrameShown s with
  | some f => f.cmd
  | none => Config.freeByte s.freeIndex 40

/-- `rx_frame.addr` (R37). -/
def rxAddrPins (s : State) : Addr :=
  match rxFrameShown s with
  | some f => f.address
  | none => Config.freeByte s.freeIndex 41 ++ Config.freeByte s.freeIndex 42

/-- `rx_frame.flags` (R37). -/
def rxFlagsPins (s : State) : Byte :=
  match rxFrameShown s with
  | some f => f.flags
  | none => Config.freeByte s.freeIndex 43

/-- `rx_frame.len` (R37). -/
def rxLenPins (s : State) : BitVec 6 :=
  match rxFrameShown s with
  | some f => BitVec.ofNat 6 f.payload.length
  | none => (Config.freeByte s.freeIndex 44).setWidth 6

/-- Byte `k` of `rx_frame.data` (R37); bytes beyond the payload are unspecified. -/
def rxDataPins (s : State) (k : Nat) : Byte :=
  match rxFrameShown s with
  | some f => dataByte f.payload s.freeIndex 64 k
  | none => Config.freeByte s.freeIndex (64 + k)

end Sys2Proof.Machine
end

