-- ==== Sys2Proof/Safety.lean ====
section
/-! DEFINITION. Safety.lean: what counts as a safe state and a safe run, in the terms the statements use: the
invariant of the whole machine, what an event may leave unchanged, and the life of a Transaction (R170). -/

namespace Sys2Proof.Machine

/-! ## Safe states -/

/-- A deframer state the rules can leave: the collector never exceeds `MAX_HEX_CHARS` (R22) and is empty, with
`S.rx_bad` clear, in IDLE (R121, R125). -/
def Deframer.Ok (c : Config) (r : Deframer) : Prop :=
  r.nib.length ≤ c.maxHexChars ∧ (r.state = .idle → r.nib = [] ∧ r.bad = false)

/-- What R27 and R28 say of the fields of a Transaction record. -/
def Transaction.Ok (c : Config) (t : Transaction) : Prop :=
  t.data.length = t.len ∧ t.len ≤ c.maxPayload ∧ (t.op = .get → t.len = 0) ∧ t.tag < 2 ^ c.wTag ∧
    t.issueTime < 2 ^ c.wTime ∧ t.retryCount < c.maxAttempts ∧ (t.state = .queued → t.retryCount = 0) ∧
    (t.state = .retryPending → 1 ≤ t.retryCount)

/-- R29: every element of the queue other than the head is QUEUED with `retry_count` 0. -/
def TailQueued (queue : List Transaction) : Prop := ∀ t ∈ queue.tail, t.state = .queued ∧ t.retryCount = 0

/-- The transmit buffer holds the rest of the wire form of one valid frame (R24, R107); nothing is such a rest too. -/
def TxBufOk (c : Config) (txBuf : List Byte) : Prop :=
  ∃ f : Frame, f.payload.length ≤ c.maxPayload ∧ txBuf <:+ wireForm f

/-- R144: "there is no observable state in which the head wants to send, the wire is free, and nothing has been
loaded". -/
def NothingToIssue (s : State) : Prop :=
  ∀ h rest, s.queue = h :: rest → h.wantsToSend = true → wireBusy s = true

/-- The invariant of the machine: valid parameters and everything the rules of `10_state.md` say of the state. -/
structure State.Inv (s : State) : Prop where
  config   : s.config.Valid
  deframer : s.rx.Ok s.config
  txBuf    : TxBufOk s.config s.txBuf
  room     : s.queue.length ≤ s.config.qDepth
  records  : ∀ t ∈ s.queue, t.Ok s.config
  tail     : TailQueued s.queue
  time     : s.now < 2 ^ s.config.wTime
  issued   : NothingToIssue s

/-! ## What an event leaves unchanged -/

/-- The engine's state is the same (R20). -/
def SameEngine (s t : State) : Prop := t.txBuf = s.txBuf ∧ t.queue = s.queue ∧ t.now = s.now

/-- The parameters and the schedule are the same: no event of the block changes either. -/
def SameSurroundings (s t : State) : Prop := t.config = s.config ∧ t.inputs = s.inputs

/-- The digit each `FEED.HEXDIGIT` row stands for, read from the notes of the opcode table (`0`..`7`, `8`..`9`, `A`,
`B`..`C`, `D`..`E`, `F`). -/
def digitOf : Instr → Option Nibble
  | .feedHex07 k => some (BitVec.ofNat 4 k.toNat)
  | .feedHex89 k => some (BitVec.ofNat 4 (8 + k.toNat))
  | .feedHexA => some 10
  | .feedHexBC k => some (BitVec.ofNat 4 (11 + k.toNat))
  | .feedHexDE k => some (BitVec.ofNat 4 (13 + k.toNat))
  | .feedHexF => some 15
  | _ => none

/-- The operations that are the event RX_BYTE. -/
def isFeed : Instr → Bool
  | .feedColon | .feedCr | .feedLf | .feedHex07 _ | .feedHex89 _ | .feedHexA | .feedHexBC _ | .feedHexDE _ | .feedHexF
  | .feedOther _ => true
  | _ => false

/-- The frame a received-frame operation delivers. -/
def receivedFrame (c : Config) : Instr → Option Frame
  | .ack address flags payload => some ⟨c.cmdAck, address, flags, payload⟩
  | .nak address flags payload => some ⟨c.cmdNak, address, flags, payload⟩
  | .err address flags payload => some ⟨c.cmdErr, address, flags, payload⟩
  | .other cmd address flags payload => some ⟨cmd, address, flags, payload⟩
  | _ => none

/-- The operation hands frame `f` to the engine: as a received-frame operation, or as the terminator that completes
it (R120). -/
def Delivers (i : Instr) (s : State) (f : Frame) : Prop :=
  receivedFrame s.config i = some f ∨
    ((i = .feedCr ∨ i = .feedLf) ∧ s.rx.state = .collecting ∧ validate s.rx.nib s.rx.bad = .frame f)

/-! ## The life of a Transaction -/

/-- What one operation does to the queue before the issue procedure runs, and the completion it emits: the rows of the
table of R170. -/
inductive QueueChange (i : Instr) (s : State) : List Transaction → Option Completion → Prop where
  /-- Nothing happens to any transaction. -/
  | keep : QueueChange i s s.queue none
  /-- REQ_GET accepted (R140). -/
  | acceptGet (address : Addr) (tag : Tag) (hi : i = .reqGet address tag) (room : reqReady s 1 = true) :
      QueueChange i s (s.queue ++ [getTransaction address tag]) none
  /-- REQ_SET accepted (R141). -/
  | acceptSet (address : Addr) (len : BitVec 6) (data : List Byte) (tag : Tag) (hi : i = .reqSet address len data tag)
      (room : reqReady s 2 = true) (fits : len.toNat ≤ s.config.maxPayload) :
      QueueChange i s (s.queue ++ [setTransaction address len data tag]) none
  /-- CANCEL with its tag (R143). -/
  | cancelled (tag : Tag) (hi : i = .cancel tag) : QueueChange i s (withoutTag tag s.queue) none
  /-- RESET (R231). -/
  | cleared (hi : i = .reset) : QueueChange i s [] none
  /-- A matching ACK (R162). -/
  | acked (h : Transaction) (rest : List Transaction) (f : Frame) (hq : s.queue = h :: rest) (out : h.outstanding = true)
      (hf : Delivers i s f) (sameAddress : f.address = h.address) (kind : f.cmd = s.config.cmdAck) :
      QueueChange i s rest (some ⟨h.tag, .ok, f.cmd, f.flags, f.payload.length, f.payload⟩)
  /-- A matching NAK or ERR (R163, R164). -/
  | rejected (h : Transaction) (rest : List Transaction) (f : Frame) (hq : s.queue = h :: rest)
      (out : h.outstanding = true) (hf : Delivers i s f) (sameAddress : f.address = h.address)
      (kind : f.cmd = s.config.cmdNak ∨ f.cmd = s.config.cmdErr) :
      QueueChange i s rest (some ⟨h.tag, .rejected, f.cmd, f.flags, f.payload.length, f.payload⟩)
  /-- A timeout with attempts left (R167). -/
  | retried (h : Transaction) (rest : List Transaction) (hi : i = .tick) (hq : s.queue = h :: rest)
      (waiting : h.state = .waiting) (late : s.config.timeoutTicks ≤ elapsed s.config (nextTime s) h.issueTime)
      (left : h.retryCount + 1 < s.config.maxAttempts) :
      QueueChange i s ({ h with state := .retryPending, retryCount := h.retryCount + 1 } :: rest) none
  /-- The last timeout (R168). -/
  | expired (h : Transaction) (rest : List Transaction) (hi : i = .tick) (hq : s.queue = h :: rest)
      (waiting : h.state = .waiting) (late : s.config.timeoutTicks ≤ elapsed s.config (nextTime s) h.issueTime)
      (spent : s.config.maxAttempts ≤ h.retryCount + 1) :
      QueueChange i s rest (some ⟨h.tag, .timeout, 0, 0, 0, []⟩)

/-- The transmit buffer an operation leaves to the issue procedure: TX_BYTE has taken one byte, RESET all. -/
def wireLeft (i : Instr) (s : State) : List Byte :=
  match i with
  | .txByte => s.txBuf.tail
  | .reset => []
  | _ => s.txBuf

/-- The issue procedure's part of an operation that leaves the queue `q` behind (R144): the head starts an attempt, its
frame loaded into the transmitter the operation leaves free, or nothing more happens. -/
def Issued (i : Instr) (s : State) (q : List Transaction) (t : State) : Prop :=
  (t.queue = q ∧ t.txBuf = wireLeft i s) ∨
    ∃ h rest, q = h :: rest ∧ h.wantsToSend = true ∧ wireLeft i s = [] ∧ t.txBuf = wireForm (frameOf t.config h) ∧
      t.queue = { h with state := .waiting, issueTime := t.now } :: rest

/-- The events of one unanswered attempt of a frame of `n` wire bytes: the ticks to its timeout, the last of them at the
end, and before it, in any interleaving, one TX_BYTE for each byte (R168's premise: the bytes of the loaded frame "taken
by `TX_BYTE` events before the next timeout"). -/
def SilentAttempt (c : Config) (n : Nat) (events : List Instr) : Prop :=
  ∃ before, events = before ++ [.tick] ∧
    before.Perm (List.replicate (c.timeoutTicks - 1) .tick ++ List.replicate n .txByte)

/-- The tag of a request operation that appends a transaction. -/
def requestTag : Instr → Option Tag
  | .reqGet _ tag => some tag
  | .reqSet _ _ _ tag => some tag
  | _ => none

/-- The tags of the requests a run accepted, in order: those of its REQ_GET and REQ_SET events that showed ACCEPTED. -/
def acceptedTags (events : List Instr) (outs : List Outputs) : List Tag :=
  (events.zip outs).filterMap (fun p => if p.2.reqStatus = some .accepted then requestTag p.1 else none)

end Sys2Proof.Machine
end

