-- ==== Sys2Proof/Certificates/Slice0/Obligations.lean ====
section
/-! DEFINITION. Certificates/Slice0/Obligations.lean: the statements for the provers. In all of them `s.startEvent` is
the state at the beginning of an event: every port without a valid value, everything else of the block as in `s` (the
model's own counter of free values, which no statement rests on, has moved on). -/

open Sys2Proof Sys2Proof.Machine

/-! ## Reset -/

/-- R230: RESET is always enabled, takes precedence over every other input of its cycle, and sets the fields it lists;
no completion, no status, no byte and no result is produced; the parameters are unaffected. That `rx_status` shows NONE
is R40's (log 11); that the window of ENCODE, which is the model's own (log 16), shows nothing is the model's choice. -/
def Obligations.ResetEmptiesTheBlock : Prop :=
  ∀ s : State,
    (∃ t, exec .reset s = .next t ∧ t.rx.state = .idle ∧ t.rx.nib = [] ∧ t.rx.bad = false ∧ t.txBuf = [] ∧
      t.queue = [] ∧ t.now = 0 ∧ t.out.cpl = none ∧ t.out.reqStatus = none ∧ t.out.txData = none ∧
      t.out.rx = some .noResult ∧ t.out.encoded = none ∧ SameSurroundings s t) ∧
    ∀ p : Pins, p.rst = true → clock p s = exec .reset s

/-- R40: the value of every field, and of the outputs, right after reset: of the state a run starts from, and of the
state RESET leaves with any valid parameters. R5, R6: the parameters of `State.reset` are the stated values and the
defaults, the five command codes pairwise distinct, an address 16 bits wide, and no operation changes a parameter
(`Q_DEPTH` is the model's choice, log 1, and is not stated here). -/
def Obligations.ResetStateHasTheValuesOfTheResetTable : Prop :=
  (∀ s t : State, s.config.Valid → (s = State.reset ∧ t = s ∨ exec .reset s = .next t) →
    t.rx.state = .idle ∧ t.rx.nib = [] ∧ t.rx.bad = false ∧ t.txBuf = [] ∧ wireBusy t = false ∧ txValid t = false ∧
      t.queue = [] ∧ (∀ op, reqReady t op = true) ∧ t.now = 0 ∧ cplValid t = false ∧ rxStatusPins t = 0 ∧
      t.config = s.config) ∧
  (State.reset.config.maxPayload = 32 ∧ State.reset.config.maxAttempts = 3 ∧ State.reset.config.timeoutMs = 500 ∧
    ∀ n, n < 2 ^ 16 ↔ ∃ a : Addr, a.toNat = n) ∧
  (State.reset.config.tickMs = 1 ∧ State.reset.config.cmdGet = 0x07 ∧ State.reset.config.cmdSet = 0x08 ∧
    State.reset.config.cmdAck = 0x01 ∧ State.reset.config.cmdNak = 0x03 ∧ State.reset.config.cmdErr = 0x04 ∧
    State.reset.config.reqFlags = 0x00 ∧ State.reset.config.wTime = 32 ∧ State.reset.config.wTag = 8 ∧
    ∀ c : Config, c.Valid → c.CodesDistinct) ∧
  ∀ (i : Instr) (s t : State), exec i s = .next t → t.config = s.config

/-! ## The frame codec: encoder -/

/-- R101: `Checksum` is the negated byte sum modulo 256; an 8-bit accumulator that discards carries computes the same;
the bytes with their checksum sum to 0; its corner cases. -/
def Obligations.ChecksumNegatesTheByteSum : Prop :=
  (∀ bs : List Byte,
    (checksum bs).toNat = (256 - (bs.map BitVec.toNat).sum % 256) % 256 ∧
    checksum bs = -(bs.foldl (fun acc b => acc + b) 0) ∧
    ((bs.map BitVec.toNat).sum + (checksum bs).toNat) % 256 = 0) ∧
  checksum [] = 0x00 ∧ checksum [0xF9, 0x07, 0x00, 0x00] = 0x00 ∧ checksum [0x01] = 0xFF ∧
    checksum [0x07, 0x15, 0x20, 0x00] = 0xC4

/-- R102: the result of ENCODE on a Frame that fits is `:`, two characters for each byte of the binary frame, CR, LF,
of length `2n + 13`; all characters between are upper-case hex digits; nothing else of the block changes. Where the
result shows is the model's choice (log 16). -/
def Obligations.EncodeProducesTheWireForm : Prop :=
  ∀ (s : State) (f : Frame), f.payload.length ≤ s.config.maxPayload →
    let head := [f.cmd, f.address.setWidth 8, (f.address >>> 8).setWidth 8, f.flags] ++ f.payload
    let body := (head ++ [checksum head]).flatMap (fun b => [hexChar (b.extractLsb' 4 4), hexChar (b.extractLsb' 0 4)])
    let w := [0x3A] ++ body ++ [0x0D, 0x0A]
    exec (.encode f) s = .next { s.startEvent with out := { Outputs.quiet with encoded := some (.bytes w) } } ∧
      w.length = 2 * f.payload.length + 13 ∧ ∀ b ∈ body, byteClass b = .hexDigit

/-- R103 (the encoder's part): ENCODE of a Frame with more than `MAX_PAYLOAD` payload bytes gives `EncodeError`, no
bytes, and changes nothing else; and it does so on no other Frame. Where the result shows is the model's choice
(log 16). -/
def Obligations.EncodeErrorExactlyWhenPayloadTooLong : Prop :=
  ∀ (s : State) (f : Frame),
    (s.config.maxPayload < f.payload.length →
      exec (.encode f) s = .next { s.startEvent with out := { Outputs.quiet with encoded := some .encodeError } }) ∧
    (encodeFrame s.config f = .encodeError → s.config.maxPayload < f.payload.length)

/-- R104: the bytes of an encoded frame sum to 0 modulo 256, decoding it gives the Frame back, and `Encode` is
injective on valid Frames. -/
def Obligations.DecodeOfEncodeIsTheFrame : Prop :=
  ∀ (c : Config) (f g : Frame) (w v : List Byte), encodeFrame c f = .bytes w → encodeFrame c g = .bytes v →
    sumBytes (frameBytes f) % 256 = 0 ∧ decodeWire c w = [.frame f] ∧ (w = v → f = g)

/-- R53, R54, R55: on the wire a register address travels low byte first, a value's bytes in the order the host gave
them, and within each byte the character of bits 7..4 comes first. -/
def Obligations.WireOrderIsLittleEndianHighDigitFirst : Prop :=
  ∀ (f : Frame),
    ((frameBytes f)[1]?.map BitVec.toNat = some (f.address.toNat % 256)) ∧
    ((frameBytes f)[2]?.map BitVec.toNat = some (f.address.toNat / 256)) ∧
    (∀ k, k < f.payload.length → (frameBytes f)[4 + k]? = f.payload[k]?) ∧
    (∀ k b, (frameBytes f)[k]? = some b →
      ((wireForm f)[2 * k + 1]?.map hexVal = some (BitVec.ofNat 4 (b.toNat / 16)) ∧
        (wireForm f)[2 * k + 2]?.map hexVal = some (BitVec.ofNat 4 (b.toNat % 16))))

/-! ## The frame codec: decoder -/

/-- R82, R83: the four byte classes and how many bytes each has, `HexVal` with its values and inverse to `HexChar`, and lower-case `a` to
`f` of class OTHER. -/
def Obligations.ByteClassesPartitionTheBytes : Prop :=
  (∀ b : Byte, (byteClass b = .colon ↔ b = 0x3A) ∧ (byteClass b = .term ↔ b = 0x0D ∨ b = 0x0A) ∧
    (byteClass b = .hexDigit ↔ (0x30 ≤ b ∧ b ≤ 0x39) ∨ (0x41 ≤ b ∧ b ≤ 0x46)) ∧
    (0x61 ≤ b ∧ b ≤ 0x66 → byteClass b = .other)) ∧
  ((List.range 256).map (fun n => byteClass (BitVec.ofNat 8 n))).count .colon = 1 ∧
  ((List.range 256).map (fun n => byteClass (BitVec.ofNat 8 n))).count .hexDigit = 16 ∧
  ((List.range 256).map (fun n => byteClass (BitVec.ofNat 8 n))).count .term = 2 ∧
  ((List.range 256).map (fun n => byteClass (BitVec.ofNat 8 n))).count .other = 237 ∧
  (∀ d : Nibble, byteClass (hexChar d) = .hexDigit ∧ hexVal (hexChar d) = d) ∧
  (∀ b : Byte, byteClass b = .hexDigit →
    hexChar (hexVal b) = b ∧ (hexVal b).toNat = if b ≤ 0x39 then b.toNat - 0x30 else b.toNat - 0x37)

/-- R121: a `:` in either state starts a new collection and discards the old one without any error. -/
def Obligations.ColonRestartsTheCollection : Prop :=
  ∀ s : State,
    exec .feedColon s =
      .next { s.startEvent with
        rx := { state := .collecting, nib := [], bad := false }
        out := { Outputs.quiet with rx := some .noResult } }

/-- R122: in IDLE every byte but `:` is ignored (FEED.TERM, FEED.HEXDIGIT and FEED.OTHER, through the row the byte
selects and through each row's constructor). -/
def Obligations.IdleIgnoresEveryByteButColon : Prop :=
  ∀ s : State, s.rx.state = .idle →
    (∀ b : Byte, b ≠ 0x3A →
      exec (decodeByte b) s = .next { s.startEvent with out := { Outputs.quiet with rx := some .noResult } }) ∧
    (∀ i : Instr, isFeed i = true → i ≠ .feedColon →
      exec i s = .next { s.startEvent with out := { Outputs.quiet with rx := some .noResult } })

/-- R123: a hex digit in COLLECTING is appended to the collector while it holds fewer than `MAX_HEX_CHARS`, and after
that sets `S.rx_bad` and is not stored. For each FEED.HEXDIGIT row (feedHex07, feedHex89, feedHexA, feedHexBC, feedHexDE,
feedHexF) with the digit the table's note gives it. -/
def Obligations.HexDigitIsCollected : Prop :=
  ∀ (s : State) (i : Instr) (d : Nibble), digitOf i = some d → s.rx.state = .collecting →
    exec i s =
      .next { s.startEvent with
        rx :=
          if s.rx.nib.length < s.config.maxHexChars then { s.rx with nib := s.rx.nib ++ [d] }
          else { s.rx with bad := true }
        out := { Outputs.quiet with rx := some .noResult } }

/-- R124: a byte of class OTHER in COLLECTING sets `S.rx_bad` and nothing else. -/
def Obligations.OtherByteMarksTheLineBad : Prop :=
  ∀ (s : State) (b : Byte), s.rx.state = .collecting →
    (byteClass b = .other → decodeByte b = .feedOther b) ∧
    exec (.feedOther b) s =
      .next { s.startEvent with
        rx := { s.rx with bad := true }
        out := { Outputs.quiet with rx := some .noResult } }

/-- R125 and the second part of R120: CR or LF in COLLECTING validates the collection, returns the deframer to IDLE
with an empty collector and `S.rx_bad` clear, and hands a valid frame, and nothing else, to the engine. What the frame
then does there is what the operation it decodes to (ACK, NAK, ERR or OTHER, log 13) does, completion included. -/
def Obligations.TerminatorValidatesAndReturnsToIdle : Prop :=
  ∀ (s : State) (i : Instr), (i = .feedCr ∨ i = .feedLf) → s.rx.state = .collecting →
    let shown : State :=
      { s.startEvent with
        rx := { state := .idle, nib := [], bad := false }
        out := { Outputs.quiet with rx := some (validate s.rx.nib s.rx.bad) } }
    (∀ f, validate s.rx.nib s.rx.bad = .frame f →
      exec i s = .next (onFrame f shown) ∧
        ∃ u, exec (decodeReceived s.config f) s = .next u ∧ SameEngine u (onFrame f shown) ∧
          (onFrame f shown).out.cpl = u.out.cpl) ∧
    ((∀ f, validate s.rx.nib s.rx.bad ≠ .frame f) → exec i s = .next shown)

/-- R126, with the causes of R127 and R128: `Validate` reports a malformed line before a checksum error, reports each
exactly for its causes, and otherwise gives the Frame whose fields are read at the byte positions of the rule. -/
def Obligations.ValidateGivesTheVerdictOfTheRule : Prop :=
  ∀ (nib : List Nibble) (bad : Bool),
    let m := nib.length / 2
    let byteAt := fun k => 16 * (nib.getD (2 * k) 0).toNat + (nib.getD (2 * k + 1) 0).toNat
    let sum := ((List.range m).map byteAt).sum
    (validate nib bad = .malformedErr ↔ bad = true ∨ nib.length % 2 = 1 ∨ m < 5) ∧
    (validate nib bad = .checksumErr ↔ bad = false ∧ nib.length % 2 = 0 ∧ 5 ≤ m ∧ sum % 256 ≠ 0) ∧
    (bad = false → nib.length % 2 = 0 → 5 ≤ m → sum % 256 = 0 →
      ∃ f, validate nib bad = .frame f ∧ f.cmd.toNat = byteAt 0 ∧ f.address.toNat = byteAt 1 + 256 * byteAt 2 ∧
        f.flags.toNat = byteAt 3 ∧ f.payload.length = m - 5 ∧ (nib.length ≤ 74 → f.payload.length ≤ 32) ∧
        ∀ k, k < m - 5 → (f.payload.getD k 0).toNat = byteAt (4 + k)) ∧
    validate nib bad ≠ .noResult

/-- R130: noise before a frame. Whatever `z` is, feeding `z` and then an encoded frame from reset yields that frame as
the last result after the results of `z`; and `z` itself yields a frame only if it contains, after a `:`, a run of at
least 10 upper-case hex digits of even count whose bytes sum to 0 modulo 256, ended by CR or LF. -/
def Obligations.NoiseBeforeAFrameDoesNotHideIt : Prop :=
  ∀ (c : Config) (z : List Byte) (f : Frame), f.payload.length ≤ c.maxPayload →
    decodeWire c (z ++ wireForm f) = decodeWire c z ++ [.frame f] ∧
    ∀ g, RxResult.frame g ∈ decodeWire c z →
      ∃ before digits terminator after,
        z = before ++ [0x3A] ++ digits ++ [terminator] ++ after ∧ (terminator = 0x0D ∨ terminator = 0x0A) ∧
        (∀ b ∈ digits, byteClass b = .hexDigit) ∧ 10 ≤ digits.length ∧ digits.length % 2 = 0 ∧
        sumBytes (nibbleBytes (digits.map hexVal)) % 256 = 0

/-- R132: the decoder's state is written by RX_BYTE and RESET only, and what RX_BYTE makes of it, and the result it
shows, depend on nothing of the engine. -/
def Obligations.DecoderAndEngineAreIndependent : Prop :=
  (∀ (i : Instr) (s t : State), isFeed i = false → i ≠ .reset → exec i s = .next t → t.rx = s.rx) ∧
  (∀ (i : Instr) (s s' t t' : State), isFeed i = true → s.config = s'.config → s.rx = s'.rx →
    exec i s = .next t → exec i s' = .next t' → t.rx = t'.rx ∧ t.out.rx = t'.out.rx)

/-- R120, R129 and R160 together: the bytes of an encoded frame, one RX_BYTE each, from any state, act on the engine
exactly as the procedure OnFrame on that frame, which is what the operation the frame decodes to (ACK, NAK, ERR or
OTHER, log 13) does, and its completion, if any, shows at the CR; the frame shows on `rx_status` at the CR and no other
byte shows anything; the deframer ends in IDLE. -/
def Obligations.FrameBytesActAsTheFrame : Prop :=
  ∀ (s : State) (f : Frame), f.payload.length ≤ s.config.maxPayload →
    let events := (wireForm f).map decodeByte
    ∃ t u, runEvents events s = .next t ∧ exec (decodeReceived s.config f) s = .next u ∧ SameEngine u t ∧
      t.rx = Deframer.idle ∧ SameEngine (onFrame f s) t ∧ SameSurroundings s t ∧
      (outputsOf events s).map (·.rx) =
        List.replicate (2 * f.payload.length + 11) (some .noResult) ++ [some (.frame f), some .noResult] ∧
      (outputsOf events s).map (·.cpl) =
        List.replicate (2 * f.payload.length + 11) none ++ [u.out.cpl, none] ∧
      u.out.cpl = (onFrame f s.startEvent).out.cpl

/-! ## Transmitter and issue -/

/-- R106: TX_BYTE emits the first byte of `S.tx_buf` and removes it; the step that removes the last byte issues a
waiting transaction. With `S.tx_buf` empty the event cannot occur (`tx_valid` is 0, R34), and
that the operation then does nothing is the model's choice (log 8). -/
def Obligations.TxByteTakesTheFirstByte : Prop :=
  ∀ s : State,
    (∀ b rest, s.txBuf = b :: rest →
      exec .txByte s =
        .next (tryIssue { s.startEvent with txBuf := rest, out := { Outputs.quiet with txData := some b } }) ∧
      (rest ≠ [] →
        exec .txByte s =
          .next { s.startEvent with txBuf := rest, out := { Outputs.quiet with txData := some b } })) ∧
    (s.txBuf = [] → exec .txByte s = .next s.startEvent)

/-- R107: once loaded, a frame is sent to its last byte: every operation but RESET leaves a transmitter with bytes as
it is, except that TX_BYTE removes the first byte; only TX_BYTE on the last byte can be followed by another frame. -/
def Obligations.LoadedFrameIsSentWhole : Prop :=
  ∀ (i : Instr) (s t : State) (b : Byte) (rest : List Byte), i ≠ .reset → s.txBuf = b :: rest → exec i s = .next t →
    (i ≠ .txByte → t.txBuf = s.txBuf) ∧
    (i = .txByte → rest ≠ [] → t.txBuf = rest) ∧
    (i = .txByte → rest = [] →
      t.txBuf = [] ∨
        ∃ h tail, s.queue = h :: tail ∧ h.wantsToSend = true ∧ t.txBuf = wireForm (frameOf s.config h))

/-- R144: TryIssue loads the head's frame, makes it WAITING and starts its timer exactly when the head is QUEUED or
RETRY_PENDING and the wire is free; else it changes nothing; running it twice changes nothing more; and after it there
is nothing left to issue (for a head whose data fits a frame, R141). -/
def Obligations.TryIssueLoadsTheHeadWhenItCan : Prop :=
  ∀ (s : State),
    (∀ h rest, s.queue = h :: rest → (h.state = .queued ∨ h.state = .retryPending) → s.txBuf = [] →
      h.len ≤ s.config.maxPayload →
      encodeFrame s.config (frameOf s.config h) = .bytes (wireForm (frameOf s.config h)) ∧
      tryIssue s =
        { s with
          txBuf := wireForm (frameOf s.config h)
          queue := { h with state := .waiting, issueTime := s.now } :: rest }) ∧
    ((s.queue = [] ∨ (∃ h rest, s.queue = h :: rest ∧ h.state = .waiting) ∨ s.txBuf ≠ []) → tryIssue s = s) ∧
    tryIssue (tryIssue s) = tryIssue s ∧
    ((∀ h rest, s.queue = h :: rest → h.len ≤ s.config.maxPayload) → NothingToIssue (tryIssue s))

/-- R105: FrameOf gives a GET an empty payload and a SET its value bytes, with `REQ_FLAGS` and the transaction's
address; it does not depend on what changes after acceptance, so every attempt of a transaction sends identical bytes. -/
def Obligations.EveryAttemptSendsTheSameFrame : Prop :=
  ∀ (c : Config) (t : Transaction) (state : TxnState) (issueTime : Time) (retryCount : Nat),
    (t.op = .get → frameOf c t = ⟨c.cmdGet, t.address, c.reqFlags, []⟩) ∧
    (t.op = .set → frameOf c t = ⟨c.cmdSet, t.address, c.reqFlags, t.data.take t.len⟩) ∧
    frameOf c { t with state := state, issueTime := issueTime, retryCount := retryCount } = frameOf c t

/-- The GET and SET frames leaving the block (R91, R92, R105, R144): when the head transaction wants that very frame
sent and the wire is free, GET (SET) loads its wire form and the head becomes WAITING with its timer started; nothing
else changes. That the operation sends nothing in every other case is the model's choice (log 7, from R108): the queue is
empty, the head waits for a response, the wire is busy, or the head's frame is another one by its address, its kind or
its value bytes. -/
def Obligations.RequestFramesAreSentForTheHead : Prop :=
  (∀ (s : State) (h : Transaction) (rest : List Transaction), s.queue = h :: rest →
    (h.state = .queued ∨ h.state = .retryPending) → s.txBuf = [] →
    (h.op = .get →
      exec (.get h.address) s =
        .next { s.startEvent with
          txBuf := wireForm ⟨s.config.cmdGet, h.address, s.config.reqFlags, []⟩
          queue := { h with state := .waiting, issueTime := s.now } :: rest }) ∧
    (h.op = .set → h.data.length = h.len → h.len ≤ s.config.maxPayload →
      exec (.set h.address h.data) s =
        .next { s.startEvent with
          txBuf := wireForm ⟨s.config.cmdSet, h.address, s.config.reqFlags, h.data⟩
          queue := { h with state := .waiting, issueTime := s.now } :: rest })) ∧
  ∀ (s : State) (address : Addr) (payload : List Byte),
    (s.queue = [] → exec (.get address) s = .next s.startEvent ∧ exec (.set address payload) s = .next s.startEvent) ∧
    ∀ (h : Transaction) (rest : List Transaction), s.queue = h :: rest →
      ((h.address ≠ address ∨ h.state = .waiting ∨ s.txBuf ≠ []) →
        exec (.get address) s = .next s.startEvent ∧ exec (.set address payload) s = .next s.startEvent) ∧
      (s.config.CodesDistinct → h.op = .set → exec (.get address) s = .next s.startEvent) ∧
      (s.config.CodesDistinct → h.op = .get → exec (.set address payload) s = .next s.startEvent) ∧
      (h.op = .set → payload ≠ h.data.take h.len → exec (.set address payload) s = .next s.startEvent)

/-! ## Requests -/

/-- R140: with room in the queue REQ_GET appends the transaction it describes, is accepted, and issues; into an idle
block it goes straight to WAITING with its frame loaded. -/
def Obligations.ReqGetAppendsATransaction : Prop :=
  ∀ (s : State) (address : Addr) (tag : Tag), s.queue.length < s.config.qDepth →
    let t : Transaction :=
      { op := .get, address := address, len := 0, data := [], tag := tag, state := .queued, issueTime := 0, retryCount := 0 }
    exec (.reqGet address tag) s =
      .next (tryIssue
        { s.startEvent with queue := s.queue ++ [t], out := { Outputs.quiet with reqStatus := some .accepted } }) ∧
    (s.queue = [] → s.txBuf = [] →
      exec (.reqGet address tag) s =
        .next { s.startEvent with
          queue := [{ t with state := .waiting, issueTime := s.now }]
          txBuf := wireForm ⟨s.config.cmdGet, address, s.config.reqFlags, []⟩
          out := { Outputs.quiet with reqStatus := some .accepted } })

/-- R141: with room in the queue REQ_SET of at most `MAX_PAYLOAD` bytes appends the transaction it describes, with the
first `len` data bytes, is accepted, and issues; a longer one is refused with `ENCODE_ERROR` and changes nothing. -/
def Obligations.ReqSetAppendsATransactionOrIsRefused : Prop :=
  ∀ (s : State) (address : Addr) (len : BitVec 6) (data : List Byte) (tag : Tag), s.queue.length < s.config.qDepth →
    let t : Transaction :=
      { op := .set, address := address, len := len.toNat, data := data.take len.toNat, tag := tag, state := .queued
        issueTime := 0, retryCount := 0 }
    (s.config.maxPayload < len.toNat →
      exec (.reqSet address len data tag) s =
        .next { s.startEvent with out := { Outputs.quiet with reqStatus := some .encodeError } }) ∧
    (len.toNat ≤ s.config.maxPayload →
      exec (.reqSet address len data tag) s =
        .next (tryIssue
          { s.startEvent with queue := s.queue ++ [t], out := { Outputs.quiet with reqStatus := some .accepted } }) ∧
      (s.queue = [] → s.txBuf = [] →
        exec (.reqSet address len data tag) s =
          .next { s.startEvent with
            queue := [{ t with state := .waiting, issueTime := s.now }]
            txBuf := wireForm ⟨s.config.cmdSet, address, s.config.reqFlags, data.take len.toNat⟩
            out := { Outputs.quiet with reqStatus := some .accepted } }))

/-- R143: CANCEL, always enabled, destroys every transaction with its tag, keeps the others in order, is accepted, emits
no completion, leaves the transmitter alone while it holds bytes, and issues the new head if the wire is free. -/
def Obligations.CancelDestroysTheTag : Prop :=
  ∀ (s : State) (tag : Tag),
    exec (.cancel tag) s =
      .next (tryIssue
        { s.startEvent with
          queue := s.queue.filter (fun t => t.tag != tag)
          out := { Outputs.quiet with reqStatus := some .accepted } }) ∧
    ∀ t, exec (.cancel tag) s = .next t →
      (∀ x ∈ t.queue, x.tag ≠ tag) ∧ t.queue.map (·.tag) = (s.queue.map (·.tag)).filter (· != tag) ∧
      t.out.cpl = none ∧ (s.txBuf ≠ [] → t.txBuf = s.txBuf)

/-- R86: the operation each `req_op` selects and the fields it uses; a handshake with `req_op = 0` changes nothing and
returns ACCEPTED. -/
def Obligations.RequestPortSelectsTheOperation : Prop :=
  (∀ (c : Config) (addr : Addr) (len : BitVec 6) (data : BitVec 256) (tag : Nat), tag < 2 ^ c.wTag →
    decode c (.req 0 addr len data tag) = .ok .reqNone ∧
    decode c (.req 1 addr len data tag) = .ok (.reqGet addr tag) ∧
    (∃ lanes, decode c (.req 2 addr len data tag) = .ok (.reqSet addr len lanes tag) ∧
      lanes.length = 32 ∧ ∀ k, k < 32 → lanes[k]? = some (data.extractLsb' (8 * k) 8)) ∧
    decode c (.req 3 addr len data tag) = .ok (.cancel tag)) ∧
  (∀ s : State, s.queue.length < s.config.qDepth →
    exec .reqNone s = .next { s.startEvent with out := { Outputs.quiet with reqStatus := some .accepted } })

/-- R142, R35: with the queue full a request other than CANCEL is not taken: no state of the block changes and no
status is shown (that the operation itself, executed then, does nothing is the model's choice, log 8). At the step the
request waits at the port (the model's schedule, log 2): it stays in the schedule, the requests keep their order
among themselves and so do the other events. -/
def Obligations.RequestWaitsWhileTheQueueIsFull : Prop :=
  ∀ s : State, s.config.qDepth ≤ s.queue.length →
    (exec .reqNone s = .next s.startEvent) ∧
    (∀ address tag, exec (.reqGet address tag) s = .next s.startEvent) ∧
    (∀ address len data tag, exec (.reqSet address len data tag) s = .next s.startEvent) ∧
    (∀ op addr len data tag rest, s.config.Valid → op ≠ 3 → s.inputs = .req op addr len data tag :: rest →
      ∃ t, step s = .next t ∧ t.config = s.config ∧ t.rx = s.rx ∧ SameEngine s t ∧ t.out = Outputs.quiet ∧
        t.inputs.Perm s.inputs ∧ t.inputs.filter PortWord.isRequest = s.inputs.filter PortWord.isRequest ∧
        t.inputs.filter (fun w => !w.isRequest) = s.inputs.filter (fun w => !w.isRequest))

/-! ## Responses -/

/-- R160, R161: a frame that finds no outstanding transaction (queue empty, or head never transmitted), or another
address than the outstanding one's, is dropped: no state changes and nothing is emitted. That the rows ACK, NAK, ERR and
OTHER run alone are OnFrame, with the decoder untouched and `rx_status` silent, is log 13. -/
def Obligations.UnmatchedFrameIsDropped : Prop :=
  ∀ (s : State) (address : Addr) (flags : Byte) (payload : List Byte),
    (∀ h rest, s.queue = h :: rest → h.state ≠ .queued → address ≠ h.address) →
    exec (.ack address flags payload) s = .next s.startEvent ∧ exec (.nak address flags payload) s = .next s.startEvent ∧
      exec (.err address flags payload) s = .next s.startEvent ∧
      ∀ cmd, exec (.other cmd address flags payload) s = .next s.startEvent

/-- R162, R169: an ACK with the outstanding transaction's address completes it OK with the response's fields, removes
it, and issues the next (the row ACK run alone, without the byte that delivers the frame: log 13). -/
def Obligations.AckCompletesTheHead : Prop :=
  ∀ (s : State) (h : Transaction) (rest : List Transaction) (flags : Byte) (payload : List Byte),
    s.queue = h :: rest → (h.state = .waiting ∨ h.state = .retryPending) →
    exec (.ack h.address flags payload) s =
      .next (tryIssue
        { s.startEvent with
          queue := rest
          out :=
            { Outputs.quiet with
              cpl := some
                { tag := h.tag, result := .ok, rspType := s.config.cmdAck, flags := flags, len := payload.length
                  data := payload } } })

/-- R163: a NAK with the outstanding transaction's address fails it at once, REJECTED, whatever its kind and however
many attempts are left (the row NAK run alone, without the byte that delivers the frame: log 13). -/
def Obligations.NakRejectsTheHead : Prop :=
  ∀ (s : State) (h : Transaction) (rest : List Transaction) (flags : Byte) (payload : List Byte),
    s.config.CodesDistinct → s.queue = h :: rest → (h.state = .waiting ∨ h.state = .retryPending) →
    exec (.nak h.address flags payload) s =
      .next (tryIssue
        { s.startEvent with
          queue := rest
          out :=
            { Outputs.quiet with
              cpl := some
                { tag := h.tag, result := .rejected, rspType := s.config.cmdNak, flags := flags, len := payload.length
                  data := payload } } })

/-- R164: an ERR has the same effect as a NAK and is told apart by `cpl_rsp_type` (the row ERR run alone,
without the byte that delivers the frame: log 13). -/
def Obligations.ErrRejectsTheHead : Prop :=
  ∀ (s : State) (h : Transaction) (rest : List Transaction) (flags : Byte) (payload : List Byte),
    s.config.CodesDistinct → s.queue = h :: rest → (h.state = .waiting ∨ h.state = .retryPending) →
    exec (.err h.address flags payload) s =
      .next (tryIssue
        { s.startEvent with
          queue := rest
          out :=
            { Outputs.quiet with
              cpl := some
                { tag := h.tag, result := .rejected, rspType := s.config.cmdErr, flags := flags, len := payload.length
                  data := payload } } })

/-- R165: a received frame of any other kind, `CMD_GET` and `CMD_SET` included, is dropped even when its address
matches: no state change, nothing emitted (the row OTHER run alone, decoder untouched and `rx_status` silent: log 13). -/
def Obligations.OtherFrameIsDropped : Prop :=
  ∀ (s : State) (cmd : Byte) (address : Addr) (flags : Byte) (payload : List Byte),
    cmd ≠ s.config.cmdAck → cmd ≠ s.config.cmdNak → cmd ≠ s.config.cmdErr →
    exec (.other cmd address flags payload) s = .next s.startEvent ∧
      (s.config.CodesDistinct →
        (∀ f : Frame, f.cmd = s.config.cmdGet ∨ f.cmd = s.config.cmdSet → onFrame f s = s))

/-- R160: "the address is the only thing compared": flags, payload and the kind of the request play no part in whether
a frame matches, nor in what it does to the engine: with the head's kind exchanged a frame is dropped as before or
leads to the very same state. -/
def Obligations.MatchingIgnoresFlagsPayloadAndKind : Prop :=
  ∀ (s : State) (f g : Frame), f.cmd = g.cmd → f.address = g.address →
    SameEngine (onFrame f s) (onFrame g s) ∧
    ((onFrame f s).out.cpl.map (fun c => (c.tag, c.result)) = (onFrame g s).out.cpl.map (fun c => (c.tag, c.result))) ∧
    ∀ (h : Transaction) (rest : List Transaction) (op : TxnOp), s.queue = h :: rest →
      let s' : State := { s with queue := { h with op := op } :: rest }
      (onFrame f s').out.cpl = (onFrame f s).out.cpl ∧
        ((onFrame f s = s ∧ onFrame f s' = s') ∨ onFrame f s' = onFrame f s)

/-! ## Time -/

/-- R166 without a timeout: TICK advances `S.now` modulo 2^`W_TIME`; when the head is not WAITING, or its timer has not
reached `TIMEOUT_MS / TICK_MS` at the new time, nothing else happens but the issue procedure. -/
def Obligations.TickAdvancesTime : Prop :=
  ∀ s : State,
    (∀ h rest, s.queue = h :: rest → h.state = .waiting →
      elapsed s.config ((s.now + 1) % 2 ^ s.config.wTime) h.issueTime < s.config.timeoutMs / s.config.tickMs) →
    exec .tick s = .next (tryIssue { s.startEvent with now := (s.now + 1) % 2 ^ s.config.wTime })

/-- R167: a timeout with attempts left makes the head RETRY_PENDING with one more timeout counted, and the issue
procedure sends the same frame again at once if the wire is free; nothing is emitted. -/
def Obligations.TimeoutWithAttemptsLeftRetries : Prop :=
  ∀ (s : State) (h : Transaction) (rest : List Transaction), s.queue = h :: rest → h.state = .waiting →
    s.config.timeoutMs / s.config.tickMs ≤ elapsed s.config ((s.now + 1) % 2 ^ s.config.wTime) h.issueTime →
    h.retryCount + 1 < s.config.maxAttempts →
    let now := (s.now + 1) % 2 ^ s.config.wTime
    (s.txBuf ≠ [] →
      exec .tick s =
        .next { s.startEvent with
          now := now
          queue := { h with retryCount := h.retryCount + 1, state := .retryPending } :: rest }) ∧
    (s.txBuf = [] → h.len ≤ s.config.maxPayload →
      exec .tick s =
        .next { s.startEvent with
          now := now
          queue := { h with retryCount := h.retryCount + 1, state := .waiting, issueTime := now } :: rest
          txBuf := wireForm (frameOf s.config h) })

/-- R168, R169: a timeout with no attempt left completes the head with TIMEOUT and zero response fields, removes it,
issues the next, and leaves a frame still in the transmitter there. -/
def Obligations.LastTimeoutCompletesTheHead : Prop :=
  ∀ (s : State) (h : Transaction) (rest : List Transaction), s.queue = h :: rest → h.state = .waiting →
    s.config.timeoutMs / s.config.tickMs ≤ elapsed s.config ((s.now + 1) % 2 ^ s.config.wTime) h.issueTime →
    s.config.maxAttempts ≤ h.retryCount + 1 →
    exec .tick s =
      .next (tryIssue
        { s.startEvent with
          now := (s.now + 1) % 2 ^ s.config.wTime
          queue := rest
          out :=
            { Outputs.quiet with
              cpl := some { tag := h.tag, result := .timeout, rspType := 0x00, flags := 0x00, len := 0, data := [] } } }) ∧
    (∀ t, s.txBuf ≠ [] → exec .tick s = .next t → t.txBuf = s.txBuf)

/-- R30: `S.now` counts TICK events modulo 2^`W_TIME`, wrapping, and the elapsed time is correct across the wrap as long
as the true elapsed time is below 2^`W_TIME`. -/
def Obligations.ElapsedTimeIsCorrectAcrossTheWrap : Prop :=
  (∀ (s : State), ∃ t, exec .tick s = .next t ∧ t.now = (s.now + 1) % 2 ^ s.config.wTime) ∧
  (∀ (c : Config) (since n : Nat), since < 2 ^ c.wTime → n < 2 ^ c.wTime →
    elapsed c ((since + n) % 2 ^ c.wTime) since = n)

/-- R166, R245: an attempt loaded now is left alone by the next `TIMEOUT_MS / TICK_MS - 1` ticks, which emit nothing,
and times out on the tick after them: it is retried or, with no attempt left, completed with TIMEOUT. -/
def Obligations.AttemptTimesOutOnTheThresholdTick : Prop :=
  ∀ (s : State) (h : Transaction) (rest : List Transaction), s.config.Valid → s.queue = h :: rest → h.state = .waiting →
    h.issueTime = s.now → s.now < 2 ^ s.config.wTime → s.config.timeoutTicks < 2 ^ s.config.wTime →
    (∀ n, n < s.config.timeoutTicks →
      ∃ t, runEvents (List.replicate n .tick) s = .next t ∧ t.queue = s.queue ∧ t.txBuf = s.txBuf ∧ t.rx = s.rx ∧
        t.now = (s.now + n) % 2 ^ s.config.wTime ∧ ∀ o ∈ outputsOf (List.replicate n .tick) s, o = Outputs.quiet) ∧
    ∃ t, runEvents (List.replicate s.config.timeoutTicks .tick) s = .next t ∧
      (h.retryCount + 1 < s.config.maxAttempts →
        t.out.cpl = none ∧ t.queue.head?.map (·.retryCount) = some (h.retryCount + 1) ∧ t.queue.tail = rest) ∧
      (s.config.maxAttempts ≤ h.retryCount + 1 →
        t.out.cpl = some { tag := h.tag, result := .timeout, rspType := 0, flags := 0, len := 0, data := [] } ∧
          t.queue.length = rest.length)

/-- The document's property S5 (R168, R245): a request whose frame has just been loaded and that never gets a response,
each loaded frame being drained by TX_BYTE events before its timeout in any interleaving with the ticks, is sent
`MAX_ATTEMPTS` times in all, then fails with the one completion TIMEOUT on the last tick, `MAX_ATTEMPTS` timeouts after
its first loading; nothing of it is left, and the request behind it, if any, is issued on that tick. Only TICK and TX_BYTE
occur in the run, no TX_BYTE with an empty transmitter. -/
def Obligations.UnansweredRequestFailsAfterAllAttempts : Prop :=
  ∀ (s : State) (h : Transaction) (rest : List Transaction) (attempts : List (List Instr)), s.Inv →
    s.queue = h :: rest → h.state = .waiting → h.retryCount = 0 → h.issueTime = s.now →
    s.txBuf = wireForm (frameOf s.config h) → s.config.timeoutTicks < 2 ^ s.config.wTime →
    attempts.length = s.config.maxAttempts →
    (∀ a ∈ attempts, SilentAttempt s.config (wireForm (frameOf s.config h)).length a) →
    let events := attempts.flatten
    ∃ t, runEvents events s = .next t ∧ t.rx = s.rx ∧
      t.now = (s.now + s.config.maxAttempts * s.config.timeoutTicks) % 2 ^ s.config.wTime ∧
      (rest = [] → t.queue = [] ∧ t.txBuf = []) ∧
      (∀ g behind, rest = g :: behind →
        t.queue = { g with state := .waiting, issueTime := t.now } :: behind ∧ t.txBuf = wireForm (frameOf s.config g)) ∧
      (outputsOf events s).filterMap (·.cpl) =
        [{ tag := h.tag, result := .timeout, rspType := 0, flags := 0, len := 0, data := [] }] ∧
      t.out.cpl.isSome = true ∧
      (outputsOf events s).filterMap (·.txData) =
        (List.replicate s.config.maxAttempts (wireForm (frameOf s.config h))).flatten

/-! ## The whole machine -/

/-- Every step keeps the invariant: valid parameters, bounded collector empty in IDLE (R21 to R23), the transmit buffer
the rest of one frame (R24, R107), at most `Q_DEPTH` records (R26), each as R27 and R28 say, only the head ever
transmitted (R29), time below 2^`W_TIME` (R30), nothing left to issue (R144). -/
def Obligations.StepKeepsTheInvariant : Prop := ∀ s t : State, s.Inv → step s = .next t → t.Inv

/-- The invariant holds right after reset (R40), with any valid parameters and any schedule. -/
def Obligations.ResetEstablishesTheInvariant : Prop :=
  State.reset.Inv ∧ ∀ s t : State, s.config.Valid → exec .reset s = .next t → t.Inv

/-- R29: every element of the queue other than the head is QUEUED with `retry_count` 0; reset establishes it and every
operation keeps it; so at most one transaction in the whole block is outstanding. -/
def Obligations.OnlyTheHeadIsEverOutstanding : Prop :=
  TailQueued State.reset.queue ∧
  (∀ (i : Instr) (s t : State), TailQueued s.queue → exec i s = .next t → TailQueued t.queue) ∧
  (∀ q : List Transaction, TailQueued q → (q.filter (fun t => t.outstanding)).length ≤ 1)

/-- R170: the life of a Transaction. Whatever operation runs, the queue changes in one of the ways of the table, for the
cause the table gives and with the completion it gives, followed at most by the issue of the head, into a wire that the
operation leaves free; "no other transition exists". -/
def Obligations.TransactionsMoveOnlyAsTheTableSays : Prop :=
  ∀ (i : Instr) (s t : State), exec i s = .next t → ∃ q, QueueChange i s q t.out.cpl ∧ Issued i s q t

/-- R62, R68: requests are copied at acceptance and never altered or reordered: after any operation the transactions
are some of those before, in their order and with the same operation, address, length, data and tag, or those and one
newly accepted at the end. -/
def Obligations.RequestsKeepTheirOrderAndContents : Prop :=
  ∀ (i : Instr) (s t : State), exec i s = .next t →
    let content := fun x : Transaction => (x.op, x.address, x.len, x.data, x.tag)
    (t.queue.map content).Sublist (s.queue.map content) ∨
      ∃ x : Transaction, t.queue.map content = s.queue.map content ++ [content x] ∧
        ((∃ address tag, i = .reqGet address tag ∧ content x = (.get, address, 0, [], tag)) ∨
          (∃ address len data tag, i = .reqSet address len data tag ∧
            content x = (.set, address, len.toNat, data.take len.toNat, tag)))

/-- R64, R145: in any run without CANCEL and RESET the completions come in acceptance order, and every accepted request
has had exactly one completion or is still in the queue: the tags completed, followed by those still in the queue, are
those of the queue at the start followed by those accepted on the way. -/
def Obligations.CompletionsComeInAcceptanceOrder : Prop :=
  ∀ (events : List Instr) (s : State), (∀ i ∈ events, i ≠ .reset ∧ ∀ tag, i ≠ .cancel tag) →
    ∃ t, runEvents events s = .next t ∧
      (outputsOf events s).filterMap (fun o => o.cpl.map (·.tag)) ++ t.queue.map (·.tag) =
        s.queue.map (·.tag) ++ acceptedTags events (outputsOf events s)

/-- R212: nothing halts. Every operation in every state answers a next state; and with valid parameters so does every
step whose schedule begins with a word of a port of the block. That an operation whose event cannot occur (TX_BYTE with an
empty transmitter, a request with the queue full) answers a next state is log 8; the schedule is the model's own (log 2)
and so is the idle step of an empty one (log 9). -/
def Obligations.NothingHalts : Prop :=
  (∀ (i : Instr) (s : State), ∃ t, exec i s = .next t) ∧
  (∀ s : State, s.config.Valid → (∀ bs rest, s.inputs ≠ .sent bs :: rest ∧ s.inputs ≠ .received bs :: rest) →
    ∃ t, step s = .next t)

/-- R31: no operation changes the parameters. That none touches the schedule is about the model's own field (log 2). -/
def Obligations.ParametersNeverChange : Prop :=
  ∀ (i : Instr) (s t : State), exec i s = .next t → SameSurroundings s t

/-- R200, R209: one event raises at most one error, and each of the five in the event R200 names: a codec error at a
terminator in COLLECTING, DeviceTimeoutError at the tick of the head's last timeout, SetRejected at a NAK or ERR frame that
matches the outstanding head, EncodeError at a REQ_SET that is too long (or at ENCODE, whose result shows in the model's
own window, log 16). -/
def Obligations.OneEventRaisesAtMostOneError : Prop :=
  ∀ (i : Instr) (s t : State), exec i s = .next t →
    t.out.errors.length ≤ 1 ∧
    (.checksum ∈ t.out.errors ∨ .malformedFrame ∈ t.out.errors →
      (i = .feedCr ∨ i = .feedLf) ∧ s.rx.state = .collecting ∧ SameEngine s t) ∧
    (.deviceTimeout ∈ t.out.errors →
      i = .tick ∧ ∃ h rest, s.queue = h :: rest ∧ h.state = .waiting ∧ s.config.maxAttempts ≤ h.retryCount + 1 ∧
        s.config.timeoutTicks ≤ elapsed s.config (nextTime s) h.issueTime) ∧
    (.setRejected ∈ t.out.errors →
      ∃ f h rest, Delivers i s f ∧ s.queue = h :: rest ∧ h.outstanding = true ∧ f.address = h.address ∧
        (f.cmd = s.config.cmdNak ∨ f.cmd = s.config.cmdErr)) ∧
    (.encodeError ∈ t.out.errors →
      (∃ address len data tag, i = .reqSet address len data tag ∧ s.config.maxPayload < len.toNat ∧ SameEngine s t) ∨
        ∃ f, i = .encode f)

/-- R208: a clock cycle applies the events of its asserted inputs one after another in the fixed order, `req_ready` and
`tx_valid` being those of the state at its start; the byte taken is the one that was shown; a request is answered only
if it was ready. -/
def Obligations.CycleAppliesItsEventsInOrder : Prop :=
  ∀ (p : Pins) (s : State), p.rst = false →
    let events :=
      (if p.rxValid then [decodeByte p.rxData] else []) ++ (if p.tick then [.tick] else []) ++
      (if p.reqValid && reqReady s p.reqOp then [decodeReq s.config p.reqOp p.reqAddr p.reqLen p.reqData p.reqTag] else []) ++
      (if p.txReady && wireBusy s then [.txByte] else [])
    ∃ t u, clock p s = .next t ∧ runEvents events s = .next u ∧ t.rx = u.rx ∧ SameEngine u t ∧ SameSurroundings s t ∧
      t.out.txData = (if p.txReady then s.txBuf.head? else none) ∧
      (t.out.reqStatus.isSome = true ↔ (p.reqValid && reqReady s p.reqOp) = true) ∧
      (t.out.rx.isSome = true ↔ p.rxValid = true)

/-- R208: at most one completion appears per cycle. -/
def Obligations.OneCompletionPerCycle : Prop :=
  ∀ (p : Pins) (s : State), s.Inv → ((outputsOf (cycleEvents p s) s).filterMap (·.cpl)).length ≤ 1

/-- R208: a response whose terminator arrives in the same cycle as the tick that would time its transaction out
resolves the transaction: the cycle shows the response's completion and the frame, and no other completion. The
terminator is CR or LF; that the ports show in this very cycle (R36, R37) is the event model's zero latency (log 10). -/
def Obligations.ResponseBeatsTimeoutInOneCycle : Prop :=
  ∀ (p : Pins) (s : State) (h : Transaction) (rest : List Transaction) (f : Frame) (r : CplResult), s.Inv →
    p.rst = false → p.rxValid = true → (p.rxData = 0x0D ∨ p.rxData = 0x0A) → p.tick = true → s.rx.state = .collecting →
    validate s.rx.nib s.rx.bad = .frame f → s.queue = h :: rest → h.state = .waiting → f.address = h.address →
    (f.cmd = s.config.cmdAck ∧ r = .ok ∨ (f.cmd = s.config.cmdNak ∨ f.cmd = s.config.cmdErr) ∧ r = .rejected) →
    let c : Completion :=
      { tag := h.tag, result := r, rspType := f.cmd, flags := f.flags, len := f.payload.length, data := f.payload }
    ∃ t, clock p s = .next t ∧ t.out.cpl = some c ∧ t.out.rx = some (.frame f) ∧
      (outputsOf (cycleEvents p s) s).filterMap (·.cpl) = [c]

/-- R34, R36, R37, R87, R88, R89: the numeric codes and the lines of the output ports where they are valid. Lines the
spec leaves unspecified carry free values, of which nothing is stated. -/
def Obligations.PortLinesShowTheRecords : Prop :=
  ∀ s : State,
    (txValid s = true ↔ 0 < s.txBuf.length) ∧ (∀ b rest, s.txBuf = b :: rest → txDataPin s = b) ∧
    (cplValid s = true ↔ s.out.cpl.isSome = true) ∧
    (∀ c, s.out.cpl = some c →
      cplTagPins s = c.tag ∧ cplRspTypePins s = c.rspType ∧ cplFlagsPins s = c.flags ∧
      (c.result = .ok → cplResultPins s = 0) ∧ (c.result = .rejected → cplResultPins s = 1) ∧
      (c.result = .timeout → cplResultPins s = 2) ∧ (c.len < 64 → (cplLenPins s).toNat = c.len) ∧
      ∀ k b, c.data[k]? = some b → cplDataPins s k = b) ∧
    (s.out.reqStatus = some .accepted → reqStatusPins s = 0) ∧
    (s.out.reqStatus = some .encodeError → reqStatusPins s = 1) ∧
    (s.out.rx = some .noResult → rxStatusPins s = 0) ∧ (s.out.rx = some .checksumErr → rxStatusPins s = 2) ∧
    (s.out.rx = some .malformedErr → rxStatusPins s = 3) ∧
    (∀ f, s.out.rx = some (.frame f) →
      rxStatusPins s = 1 ∧ rxCmdPins s = f.cmd ∧ rxAddrPins s = f.address ∧ rxFlagsPins s = f.flags ∧
      (f.payload.length < 64 → (rxLenPins s).toNat = f.payload.length) ∧
      ∀ k b, f.payload[k]? = some b → rxDataPins s k = b)

/-! ## Decoding and the step -/

/-- A step runs the decoded operation: when the word at the front of the schedule decodes to `i` and is not a request
that finds no room, the step is `exec i` with the schedule moved past the word. With nothing scheduled no event occurs.
Parameters outside R232 are refused (U15, log 15), and with them a `MAX_PAYLOAD` above 32 (log 5), as is a link word that
is no frame of its link (log 2); that an empty schedule gives an idle step is the model's choice (log 9). -/
def Obligations.StepRunsTheDecodedOperation : Prop :=
  ∀ s : State,
    (∀ w rest i, s.config.Valid → s.inputs = w :: rest → decode s.config w = .ok i →
      (∀ op addr len data tag, w = .req op addr len data tag → s.queue.length < s.config.qDepth ∨ op = 3) →
      step s = exec i { s with inputs := rest }) ∧
    (s.config.Valid → s.inputs = [] → step s = .next s.startEvent) ∧
    (∀ w rest e, s.config.Valid → s.inputs = w :: rest → decode s.config w = .error e →
      step s = .refused (.undecodable e)) ∧
    (¬ s.config.Valid → step s = .refused .invalidConfig)

/-- Words written out from the tables of `30_encoding.md` decode to the operations they stand for. -/
def Obligations.WrittenOutWordsDecode : Prop :=
  decode Config.spec (.sent [0x07, 0x15, 0x20, 0x00, 0xC4]) = .ok (.get 0x2015) ∧
  decode Config.spec (.sent [0x08, 0x15, 0x20, 0x00, 0x2C, 0x01, 0x96]) = .ok (.set 0x2015 [0x2C, 0x01]) ∧
  decode Config.spec (.received [0x01, 0x15, 0x20, 0x00, 0xFA, 0x00, 0xD0]) = .ok (.ack 0x2015 0x00 [0xFA, 0x00]) ∧
  decode Config.spec (.received [0x03, 0x15, 0x20, 0x02, 0xC6]) = .ok (.nak 0x2015 0x02 []) ∧
  decode Config.spec (.received [0x04, 0x15, 0x20, 0x00, 0xC7]) = .ok (.err 0x2015 0x00 []) ∧
  decode Config.spec (.received [0xF9, 0x07, 0x00, 0x00, 0x00]) = .ok (.other 0xF9 0x0007 0x00 []) ∧
  decode Config.spec (.req 1 0x2015 0 0 1) = .ok (.reqGet 0x2015 1) ∧
  decode Config.spec (.rx 0x3A) = .ok .feedColon ∧ decode Config.spec (.rx 0x37) = .ok (.feedHex07 7) ∧
  decode Config.spec (.rx 0x43) = .ok (.feedHexBC 1) ∧ decode Config.spec (.rx 0x61) = .ok (.feedOther 0x61) ∧
  decode Config.spec .txReady = .ok .txByte

/-- Decode and encode agree: for every well-formed operation, at every value of its operands its encoding admits,
decoding its word gives it back. -/
def Obligations.DecodeOfEncodedOperation : Prop :=
  ∀ (c : Config) (i : Instr), c.Valid → i.wf c = true → decode c (encode c i) = .ok i

/-- R84, R85: decoding is total on the ports: every received byte, every request record and every strobe is an
operation (R35, R86), every valid received frame is one whatever its command_type and flags; and what is decoded is well
formed (a decoded tag because it is the low `W_TAG` bits, log 14).
The other direction for received bytes: each byte is the word of the operation it decodes to. -/
def Obligations.DecodingIsTotalAndWellFormed : Prop :=
  (∀ (c : Config) (w : PortWord), (∀ bs, w ≠ .sent bs ∧ w ≠ .received bs) → ∃ i, decode c w = .ok i) ∧
  (∀ (c : Config) (f : Frame), f.payload.length ≤ c.maxPayload → ∃ i, decode c (.received (frameBytes f)) = .ok i) ∧
  (∀ (c : Config) (w : PortWord) (i : Instr), decode c w = .ok i → i.wf c = true) ∧
  (∀ (c : Config) (b : Byte), encode c (decodeByte b) = .rx b)
end

