-- ==== Sys2Proof/Laws/Codec.lean ====
section
/-! SUPPORT. Laws/Codec.lean: the small facts of the frame codec that its round trips are assembled from. -/

namespace Sys2Proof

/-! ## Checksum -/

@[simp] theorem sumBytes_nil : sumBytes [] = 0 := rfl

@[simp] theorem sumBytes_cons (b : Byte) (bs : List Byte) : sumBytes (b :: bs) = b.toNat + sumBytes bs := by
  simp [sumBytes]

@[simp] theorem sumBytes_append (as bs : List Byte) : sumBytes (as ++ bs) = sumBytes as + sumBytes bs := by
  simp [sumBytes]

/-- The value of the checksum byte. -/
theorem checksum_toNat (bs : List Byte) : (checksum bs).toNat = (256 - sumBytes bs % 256) % 256 := by
  simp [checksum]

/-! ## The binary frame -/

theorem frameBytes_length (f : Frame) : (frameBytes f).length = f.payload.length + 5 := by
  simp [frameBytes, frameHead]

theorem addr_of_bytes (a : Addr) : BitVec.ofNat 16 ((addrLow a).toNat + 256 * (addrHigh a).toNat) = a := by
  apply BitVec.eq_of_toNat_eq
  have := a.isLt
  simp [addrLow, addrHigh, Nat.shiftRight_eq_div_pow]
  omega

/-- The fields of a binary frame are read back from the positions they were written to. -/
theorem frameFields_frameBytes (f : Frame) : frameFields (frameBytes f) = f := by
  simp [frameFields, frameBytes, frameHead, addr_of_bytes]

namespace Machine

/-! ## Hex digits -/

theorem hexVal_hexChar (d : Nibble) : hexVal (hexChar d) = d := by revert d; decide

theorem byteClass_hexChar (d : Nibble) : byteClass (hexChar d) = .hexDigit := by revert d; decide

/-- The two digits of a byte, as the collector holds them. -/
def byteNibbles (b : Byte) : List Nibble := [b.extractLsb' 4 4, b.extractLsb' 0 4]

theorem nibblePair_byte (b : Byte) : BitVec.ofNat 8 (16 * (b.extractLsb' 4 4).toNat + (b.extractLsb' 0 4).toNat) = b := by
  apply BitVec.eq_of_toNat_eq
  have := b.isLt
  simp [Nat.shiftRight_eq_div_pow]
  omega

/-- Assembling the digits of bytes gives the bytes. -/
theorem nibbleBytes_byteNibbles (bs : List Byte) : nibbleBytes (bs.flatMap byteNibbles) = bs := by
  induction bs with
  | nil => rfl
  | cons b bs ih =>
    have := nibblePair_byte b
    simp only [List.flatMap_cons, byteNibbles, List.cons_append, List.nil_append, nibbleBytes, this] at *
    rw [ih]

theorem byteNibbles_length (bs : List Byte) : (bs.flatMap byteNibbles).length = 2 * bs.length := by
  induction bs with
  | nil => rfl
  | cons b bs ih => simp [byteNibbles] at *; omega

theorem hexPair_eq (b : Byte) : hexPair b = (byteNibbles b).map hexChar := rfl

theorem wireForm_eq (f : Frame) :
    wireForm f = 0x3A :: ((frameBytes f).flatMap byteNibbles).map hexChar ++ [0x0D, 0x0A] := by
  have : (frameBytes f).flatMap hexPair = ((frameBytes f).flatMap byteNibbles).map hexChar := by
    induction frameBytes f with
    | nil => rfl
    | cons b bs ih => simp [hexPair_eq, ih]
  simp [wireForm, this]

theorem wireForm_length (f : Frame) : (wireForm f).length = 2 * f.payload.length + 13 := by
  have := byteNibbles_length (frameBytes f)
  have := frameBytes_length f
  rw [wireForm_eq]
  simp only [List.cons_append, List.length_cons, List.length_append, List.length_map, List.length_nil]
  omega

/-! ## Feeding sequences of bytes -/

theorem feedAll_append (c : Config) (xs ys : List Byte) (r : Deframer) :
    r.feedAll c (xs ++ ys) =
      ((r.feedAll c xs).1 ++ ((r.feedAll c xs).2.feedAll c ys).1, ((r.feedAll c xs).2.feedAll c ys).2) := by
  induction xs generalizing r with
  | nil => simp [Deframer.feedAll]
  | cons b bs ih =>
    simp only [List.cons_append, Deframer.feedAll, ih]
    split <;> simp

/-- A digit fed to a collection with room is appended. -/
theorem feed_hexChar (c : Config) (d : Nibble) (r : Deframer) (hs : r.state = .collecting)
    (room : r.nib.length < c.maxHexChars) :
    r.feed c (hexChar d) = ({ r with nib := r.nib ++ [d] }, .noResult) := by
  have : ¬ c.maxHexChars ≤ r.nib.length := by omega
  simp [Deframer.feed, byteClass_hexChar, hexVal_hexChar, Deframer.onHexDigit, hs, collectorFull, rxBadAfterDigit, this]

/-- Digits fed to a collection with room for all of them are appended in order, with no result. -/
theorem feedAll_hexChars (c : Config) (ds : List Nibble) (r : Deframer) (hs : r.state = .collecting)
    (room : r.nib.length + ds.length ≤ c.maxHexChars) :
    r.feedAll c (ds.map hexChar) = ([], { r with nib := r.nib ++ ds }) := by
  induction ds generalizing r with
  | nil => simp [Deframer.feedAll]
  | cons d ds ih =>
    simp only [List.length_cons] at room
    simp only [List.map_cons, Deframer.feedAll, feed_hexChar c d r hs (by omega)]
    have := ih { r with nib := r.nib ++ [d] } hs (by simp; omega)
    simp [this]

end Machine
end Sys2Proof
end

