-- ==== Sys2Proof/Laws/State.lean ====
section
/-! SUPPORT. Laws/State.lean: what each named update of State leaves in each field. -/

namespace Sys2Proof.Machine.State

variable (s : State)

@[simp] theorem startEvent_config : (s.startEvent).config = s.config := rfl
@[simp] theorem startEvent_rx : (s.startEvent).rx = s.rx := rfl
@[simp] theorem startEvent_txBuf : (s.startEvent).txBuf = s.txBuf := rfl
@[simp] theorem startEvent_queue : (s.startEvent).queue = s.queue := rfl
@[simp] theorem startEvent_now : (s.startEvent).now = s.now := rfl
@[simp] theorem startEvent_out : (s.startEvent).out = Outputs.quiet := rfl
@[simp] theorem startEvent_inputs : (s.startEvent).inputs = s.inputs := rfl
@[simp] theorem startEvent_freeIndex : (s.startEvent).freeIndex = s.freeIndex + 1 := rfl

@[simp] theorem withRx_config (rx : Deframer) : (s.withRx rx).config = s.config := rfl
@[simp] theorem withRx_rx (rx : Deframer) : (s.withRx rx).rx = rx := rfl
@[simp] theorem withRx_txBuf (rx : Deframer) : (s.withRx rx).txBuf = s.txBuf := rfl
@[simp] theorem withRx_queue (rx : Deframer) : (s.withRx rx).queue = s.queue := rfl
@[simp] theorem withRx_now (rx : Deframer) : (s.withRx rx).now = s.now := rfl
@[simp] theorem withRx_out (rx : Deframer) : (s.withRx rx).out = s.out := rfl
@[simp] theorem withRx_inputs (rx : Deframer) : (s.withRx rx).inputs = s.inputs := rfl
@[simp] theorem withRx_freeIndex (rx : Deframer) : (s.withRx rx).freeIndex = s.freeIndex := rfl

@[simp] theorem withTx_config (txBuf : List Byte) : (s.withTx txBuf).config = s.config := rfl
@[simp] theorem withTx_rx (txBuf : List Byte) : (s.withTx txBuf).rx = s.rx := rfl
@[simp] theorem withTx_txBuf (txBuf : List Byte) : (s.withTx txBuf).txBuf = txBuf := rfl
@[simp] theorem withTx_queue (txBuf : List Byte) : (s.withTx txBuf).queue = s.queue := rfl
@[simp] theorem withTx_now (txBuf : List Byte) : (s.withTx txBuf).now = s.now := rfl
@[simp] theorem withTx_out (txBuf : List Byte) : (s.withTx txBuf).out = s.out := rfl
@[simp] theorem withTx_inputs (txBuf : List Byte) : (s.withTx txBuf).inputs = s.inputs := rfl
@[simp] theorem withTx_freeIndex (txBuf : List Byte) : (s.withTx txBuf).freeIndex = s.freeIndex := rfl

@[simp] theorem withQueue_config (queue : List Transaction) : (s.withQueue queue).config = s.config := rfl
@[simp] theorem withQueue_rx (queue : List Transaction) : (s.withQueue queue).rx = s.rx := rfl
@[simp] theorem withQueue_txBuf (queue : List Transaction) : (s.withQueue queue).txBuf = s.txBuf := rfl
@[simp] theorem withQueue_queue (queue : List Transaction) : (s.withQueue queue).queue = queue := rfl
@[simp] theorem withQueue_now (queue : List Transaction) : (s.withQueue queue).now = s.now := rfl
@[simp] theorem withQueue_out (queue : List Transaction) : (s.withQueue queue).out = s.out := rfl
@[simp] theorem withQueue_inputs (queue : List Transaction) : (s.withQueue queue).inputs = s.inputs := rfl
@[simp] theorem withQueue_freeIndex (queue : List Transaction) : (s.withQueue queue).freeIndex = s.freeIndex := rfl

@[simp] theorem withNow_config (now : Time) : (s.withNow now).config = s.config := rfl
@[simp] theorem withNow_rx (now : Time) : (s.withNow now).rx = s.rx := rfl
@[simp] theorem withNow_txBuf (now : Time) : (s.withNow now).txBuf = s.txBuf := rfl
@[simp] theorem withNow_queue (now : Time) : (s.withNow now).queue = s.queue := rfl
@[simp] theorem withNow_now (now : Time) : (s.withNow now).now = now := rfl
@[simp] theorem withNow_out (now : Time) : (s.withNow now).out = s.out := rfl
@[simp] theorem withNow_inputs (now : Time) : (s.withNow now).inputs = s.inputs := rfl
@[simp] theorem withNow_freeIndex (now : Time) : (s.withNow now).freeIndex = s.freeIndex := rfl

@[simp] theorem withInputs_config (inputs : List PortWord) : (s.withInputs inputs).config = s.config := rfl
@[simp] theorem withInputs_rx (inputs : List PortWord) : (s.withInputs inputs).rx = s.rx := rfl
@[simp] theorem withInputs_txBuf (inputs : List PortWord) : (s.withInputs inputs).txBuf = s.txBuf := rfl
@[simp] theorem withInputs_queue (inputs : List PortWord) : (s.withInputs inputs).queue = s.queue := rfl
@[simp] theorem withInputs_now (inputs : List PortWord) : (s.withInputs inputs).now = s.now := rfl
@[simp] theorem withInputs_out (inputs : List PortWord) : (s.withInputs inputs).out = s.out := rfl
@[simp] theorem withInputs_inputs (inputs : List PortWord) : (s.withInputs inputs).inputs = inputs := rfl
@[simp] theorem withInputs_freeIndex (inputs : List PortWord) : (s.withInputs inputs).freeIndex = s.freeIndex := rfl

@[simp] theorem emitReq_config (st : ReqStatus) : (s.emitReq st).config = s.config := rfl
@[simp] theorem emitReq_rx (st : ReqStatus) : (s.emitReq st).rx = s.rx := rfl
@[simp] theorem emitReq_txBuf (st : ReqStatus) : (s.emitReq st).txBuf = s.txBuf := rfl
@[simp] theorem emitReq_queue (st : ReqStatus) : (s.emitReq st).queue = s.queue := rfl
@[simp] theorem emitReq_now (st : ReqStatus) : (s.emitReq st).now = s.now := rfl
@[simp] theorem emitReq_out (st : ReqStatus) : (s.emitReq st).out = { s.out with reqStatus := some st } := rfl
@[simp] theorem emitReq_inputs (st : ReqStatus) : (s.emitReq st).inputs = s.inputs := rfl
@[simp] theorem emitReq_freeIndex (st : ReqStatus) : (s.emitReq st).freeIndex = s.freeIndex := rfl

@[simp] theorem emitCpl_config (c : Completion) : (s.emitCpl c).config = s.config := rfl
@[simp] theorem emitCpl_rx (c : Completion) : (s.emitCpl c).rx = s.rx := rfl
@[simp] theorem emitCpl_txBuf (c : Completion) : (s.emitCpl c).txBuf = s.txBuf := rfl
@[simp] theorem emitCpl_queue (c : Completion) : (s.emitCpl c).queue = s.queue := rfl
@[simp] theorem emitCpl_now (c : Completion) : (s.emitCpl c).now = s.now := rfl
@[simp] theorem emitCpl_out (c : Completion) : (s.emitCpl c).out = { s.out with cpl := some c } := rfl
@[simp] theorem emitCpl_inputs (c : Completion) : (s.emitCpl c).inputs = s.inputs := rfl
@[simp] theorem emitCpl_freeIndex (c : Completion) : (s.emitCpl c).freeIndex = s.freeIndex := rfl

@[simp] theorem emitRx_config (r : RxResult) : (s.emitRx r).config = s.config := rfl
@[simp] theorem emitRx_rx (r : RxResult) : (s.emitRx r).rx = s.rx := rfl
@[simp] theorem emitRx_txBuf (r : RxResult) : (s.emitRx r).txBuf = s.txBuf := rfl
@[simp] theorem emitRx_queue (r : RxResult) : (s.emitRx r).queue = s.queue := rfl
@[simp] theorem emitRx_now (r : RxResult) : (s.emitRx r).now = s.now := rfl
@[simp] theorem emitRx_out (r : RxResult) : (s.emitRx r).out = { s.out with rx := some r } := rfl
@[simp] theorem emitRx_inputs (r : RxResult) : (s.emitRx r).inputs = s.inputs := rfl
@[simp] theorem emitRx_freeIndex (r : RxResult) : (s.emitRx r).freeIndex = s.freeIndex := rfl

@[simp] theorem emitTx_config (b : Byte) : (s.emitTx b).config = s.config := rfl
@[simp] theorem emitTx_rx (b : Byte) : (s.emitTx b).rx = s.rx := rfl
@[simp] theorem emitTx_txBuf (b : Byte) : (s.emitTx b).txBuf = s.txBuf := rfl
@[simp] theorem emitTx_queue (b : Byte) : (s.emitTx b).queue = s.queue := rfl
@[simp] theorem emitTx_now (b : Byte) : (s.emitTx b).now = s.now := rfl
@[simp] theorem emitTx_out (b : Byte) : (s.emitTx b).out = { s.out with txData := some b } := rfl
@[simp] theorem emitTx_inputs (b : Byte) : (s.emitTx b).inputs = s.inputs := rfl
@[simp] theorem emitTx_freeIndex (b : Byte) : (s.emitTx b).freeIndex = s.freeIndex := rfl

@[simp] theorem emitEncoded_config (r : EncodeResult) : (s.emitEncoded r).config = s.config := rfl
@[simp] theorem emitEncoded_rx (r : EncodeResult) : (s.emitEncoded r).rx = s.rx := rfl
@[simp] theorem emitEncoded_txBuf (r : EncodeResult) : (s.emitEncoded r).txBuf = s.txBuf := rfl
@[simp] theorem emitEncoded_queue (r : EncodeResult) : (s.emitEncoded r).queue = s.queue := rfl
@[simp] theorem emitEncoded_now (r : EncodeResult) : (s.emitEncoded r).now = s.now := rfl
@[simp] theorem emitEncoded_out (r : EncodeResult) : (s.emitEncoded r).out = { s.out with encoded := some r } := rfl
@[simp] theorem emitEncoded_inputs (r : EncodeResult) : (s.emitEncoded r).inputs = s.inputs := rfl
@[simp] theorem emitEncoded_freeIndex (r : EncodeResult) : (s.emitEncoded r).freeIndex = s.freeIndex := rfl

end Sys2Proof.Machine.State

namespace Sys2Proof.Machine

variable (h : Transaction) (rest : List Transaction) (w : List Byte) (s : State)

@[simp] theorem loadHead_config : (loadHead h rest w s).config = s.config := rfl
@[simp] theorem loadHead_rx : (loadHead h rest w s).rx = s.rx := rfl
@[simp] theorem loadHead_txBuf : (loadHead h rest w s).txBuf = w := rfl
@[simp] theorem loadHead_queue : (loadHead h rest w s).queue = { h with state := .waiting, issueTime := s.now } :: rest := rfl
@[simp] theorem loadHead_now : (loadHead h rest w s).now = s.now := rfl
@[simp] theorem loadHead_out : (loadHead h rest w s).out = s.out := rfl
@[simp] theorem loadHead_inputs : (loadHead h rest w s).inputs = s.inputs := rfl
@[simp] theorem loadHead_freeIndex : (loadHead h rest w s).freeIndex = s.freeIndex := rfl

end Sys2Proof.Machine
end

