-- ==== Sys2Proof/Laws/Ops.lean ====
section
/-! SUPPORT. Laws/Ops.lean: for each shared operation, what it can do and what it leaves unchanged. -/

namespace Sys2Proof.Machine

/-! ## TryIssue -/

/-- Everything `tryIssue` can do: nothing, or load the head's frame into a free wire. -/
theorem tryIssue_cases (s : State) :
    tryIssue s = s ∨
      ∃ h rest, s.queue = h :: rest ∧ h.wantsToSend = true ∧ wireBusy s = false ∧
        (frameOf s.config h).payload.length ≤ s.config.maxPayload ∧
        tryIssue s = loadHead h rest (wireForm (frameOf s.config h)) s := by
  unfold tryIssue
  split
  · exact .inl rfl
  · rename_i h rest hq
    split
    · rename_i hc
      simp only [Bool.and_eq_true, Bool.not_eq_true'] at hc
      by_cases fits : s.config.maxPayload < (frameOf s.config h).payload.length
      · simp [encodeFrame, fits]
      · exact .inr ⟨h, rest, hq, hc.1, hc.2, by omega, by simp [encodeFrame, fits]⟩
    · exact .inl rfl

theorem tryIssue_nil {s : State} (hq : s.queue = []) : tryIssue s = s := by simp [tryIssue, hq]

theorem tryIssue_busy {s : State} (hb : wireBusy s = true) : tryIssue s = s := by
  unfold tryIssue
  split <;> simp [hb]

theorem tryIssue_settled {s : State} {h : Transaction} {rest : List Transaction} (hq : s.queue = h :: rest)
    (hw : h.wantsToSend = false) : tryIssue s = s := by simp [tryIssue, hq, hw]

theorem tryIssue_load {s : State} {h : Transaction} {rest : List Transaction} (hq : s.queue = h :: rest)
    (hw : h.wantsToSend = true) (hb : wireBusy s = false)
    (fits : (frameOf s.config h).payload.length ≤ s.config.maxPayload) :
    tryIssue s = loadHead h rest (wireForm (frameOf s.config h)) s := by
  have : ¬ s.config.maxPayload < (frameOf s.config h).payload.length := by omega
  simp [tryIssue, hq, hw, hb, encodeFrame, this]

/-- A field that `loadHead` keeps is kept by `tryIssue`. -/
theorem tryIssue_keeps {α : Type} (field : State → α)
    (keeps : ∀ h rest w (u : State), field (loadHead h rest w u) = field u) (s : State) :
    field (tryIssue s) = field s := by
  rcases tryIssue_cases s with h | ⟨h, rest, -, -, -, -, e⟩
  · rw [h]
  · rw [e, keeps]

@[simp] theorem tryIssue_config (s : State) : (tryIssue s).config = s.config :=
  tryIssue_keeps State.config (fun _ _ _ _ => rfl) s

@[simp] theorem tryIssue_rx (s : State) : (tryIssue s).rx = s.rx := tryIssue_keeps State.rx (fun _ _ _ _ => rfl) s

@[simp] theorem tryIssue_now (s : State) : (tryIssue s).now = s.now := tryIssue_keeps State.now (fun _ _ _ _ => rfl) s

@[simp] theorem tryIssue_out (s : State) : (tryIssue s).out = s.out := tryIssue_keeps State.out (fun _ _ _ _ => rfl) s

@[simp] theorem tryIssue_inputs (s : State) : (tryIssue s).inputs = s.inputs :=
  tryIssue_keeps State.inputs (fun _ _ _ _ => rfl) s

@[simp] theorem tryIssue_freeIndex (s : State) : (tryIssue s).freeIndex = s.freeIndex :=
  tryIssue_keeps State.freeIndex (fun _ _ _ _ => rfl) s

/-! ## The frame of a request -/

@[simp] theorem frameOf_address (c : Config) (t : Transaction) : (frameOf c t).address = t.address := by
  unfold frameOf; split <;> rfl

@[simp] theorem frameOf_flags (c : Config) (t : Transaction) : (frameOf c t).flags = c.reqFlags := by
  unfold frameOf; split <;> rfl

/-- A request frame is never longer than its transaction's data. -/
theorem frameOf_payload_le (c : Config) (t : Transaction) : (frameOf c t).payload.length ≤ t.len := by
  unfold frameOf getFrame setFrame
  split <;> simp

/-! ## sendFrame -/

/-- Everything `sendFrame` can do. -/
theorem sendFrame_cases (f : Frame) (s : State) :
    sendFrame f s = s ∨ (∃ h rest, s.queue = h :: rest ∧ frameOf s.config h = f) ∧ sendFrame f s = tryIssue s := by
  unfold sendFrame
  split
  · exact .inl rfl
  · rename_i h rest hq
    split
    · exact .inr ⟨⟨h, rest, hq, ‹_›⟩, rfl⟩
    · exact .inl rfl

/-! ## Complete and OnFrame -/

/-- What `complete` does before the issue procedure. -/
theorem complete_eq (h : Transaction) (r : CplResult) (f : Option Frame) (s : State) :
    complete h r f s = tryIssue ((s.emitCpl (completionOf h r f)).withQueue s.queue.tail) := rfl

@[simp] theorem complete_config (h r f) (s : State) : (complete h r f s).config = s.config := by simp [complete]
@[simp] theorem complete_rx (h r f) (s : State) : (complete h r f s).rx = s.rx := by simp [complete]
@[simp] theorem complete_now (h r f) (s : State) : (complete h r f s).now = s.now := by simp [complete]
@[simp] theorem complete_inputs (h r f) (s : State) : (complete h r f s).inputs = s.inputs := by simp [complete]
@[simp] theorem complete_out (h r f) (s : State) :
    (complete h r f s).out = { s.out with cpl := some (completionOf h r f) } := by simp [complete]

/-- Everything `onFrame` can do: drop the frame, or complete the outstanding head whose address it carries. -/
theorem onFrame_cases (f : Frame) (s : State) :
    onFrame f s = s ∨
      ∃ h rest, s.queue = h :: rest ∧ h.state ≠ .queued ∧ f.address = h.address ∧
        ((f.cmd = s.config.cmdAck ∧ onFrame f s = complete h .ok (some f) s) ∨
          ((f.cmd = s.config.cmdNak ∨ f.cmd = s.config.cmdErr) ∧ onFrame f s = complete h .rejected (some f) s)) := by
  unfold onFrame
  split
  · exact .inl rfl
  · rename_i h rest hq
    split
    · exact .inl rfl
    split
    · exact .inl rfl
    rename_i hs ha
    have ha : f.address = h.address := not_not.mp ha
    split
    · exact .inr ⟨h, rest, hq, hs, ha, .inl ⟨‹_›, rfl⟩⟩
    split
    · exact .inr ⟨h, rest, hq, hs, ha, .inr ⟨.inl ‹_›, rfl⟩⟩
    split
    · exact .inr ⟨h, rest, hq, hs, ha, .inr ⟨.inr ‹_›, rfl⟩⟩
    · exact .inl rfl

/-- A field that `complete` keeps is kept by `onFrame`. -/
theorem onFrame_keeps {α : Type} (field : State → α)
    (keeps : ∀ h r f (u : State), field (complete h r f u) = field u) (f : Frame) (s : State) :
    field (onFrame f s) = field s := by
  rcases onFrame_cases f s with h | ⟨h, rest, -, -, -, ⟨-, e⟩ | ⟨-, e⟩⟩
  · rw [h]
  · rw [e, keeps]
  · rw [e, keeps]

@[simp] theorem onFrame_config (f) (s : State) : (onFrame f s).config = s.config :=
  onFrame_keeps State.config (fun h r f u => complete_config h r f u) f s
@[simp] theorem onFrame_rx (f) (s : State) : (onFrame f s).rx = s.rx :=
  onFrame_keeps State.rx (fun h r f u => complete_rx h r f u) f s
@[simp] theorem onFrame_now (f) (s : State) : (onFrame f s).now = s.now :=
  onFrame_keeps State.now (fun h r f u => complete_now h r f u) f s
@[simp] theorem onFrame_inputs (f) (s : State) : (onFrame f s).inputs = s.inputs :=
  onFrame_keeps State.inputs (fun h r f u => complete_inputs h r f u) f s
@[simp] theorem onFrame_out_rx (f) (s : State) : (onFrame f s).out.rx = s.out.rx :=
  onFrame_keeps (fun u => u.out.rx) (fun h r f u => by simp) f s
@[simp] theorem onFrame_out_reqStatus (f) (s : State) : (onFrame f s).out.reqStatus = s.out.reqStatus :=
  onFrame_keeps (fun u => u.out.reqStatus) (fun h r f u => by simp) f s
@[simp] theorem onFrame_out_encoded (f) (s : State) : (onFrame f s).out.encoded = s.out.encoded :=
  onFrame_keeps (fun u => u.out.encoded) (fun h r f u => by simp) f s
@[simp] theorem onFrame_out_txData (f) (s : State) : (onFrame f s).out.txData = s.out.txData :=
  onFrame_keeps (fun u => u.out.txData) (fun h r f u => by simp) f s

/-! ## The RX_BYTE envelope -/

/-- Everything `rxEvent` can do. -/
theorem rxEvent_cases (case : Deframer → Deframer × RxResult) (s : State) :
    (∃ f, (case s.rx).2 = .frame f ∧
        rxEvent case s = onFrame f ((s.startEvent.withRx (case s.rx).1).emitRx (.frame f))) ∨
      ((∀ f, (case s.rx).2 ≠ .frame f) ∧
        rxEvent case s = (s.startEvent.withRx (case s.rx).1).emitRx (case s.rx).2) := by
  unfold rxEvent
  rcases h : case s.rx with ⟨d, r⟩
  cases r <;> simp

@[simp] theorem rxEvent_config (case) (s : State) : (rxEvent case s).config = s.config := by
  rcases rxEvent_cases case s with ⟨f, -, e⟩ | ⟨-, e⟩ <;> simp [e]

@[simp] theorem rxEvent_rx (case) (s : State) : (rxEvent case s).rx = (case s.rx).1 := by
  rcases rxEvent_cases case s with ⟨f, -, e⟩ | ⟨-, e⟩ <;> simp [e]

@[simp] theorem rxEvent_now (case) (s : State) : (rxEvent case s).now = s.now := by
  rcases rxEvent_cases case s with ⟨f, -, e⟩ | ⟨-, e⟩ <;> simp [e]

@[simp] theorem rxEvent_inputs (case) (s : State) : (rxEvent case s).inputs = s.inputs := by
  rcases rxEvent_cases case s with ⟨f, -, e⟩ | ⟨-, e⟩ <;> simp [e]

@[simp] theorem rxEvent_out_rx (case) (s : State) : (rxEvent case s).out.rx = some (case s.rx).2 := by
  rcases rxEvent_cases case s with ⟨f, h, e⟩ | ⟨-, e⟩ <;> simp [e]
  exact h.symm

/-! ## Timer -/

/-- Everything `checkTimer` can do. -/
theorem checkTimer_cases (s : State) :
    checkTimer s = s ∨
      ∃ h rest, s.queue = h :: rest ∧ timedOut s.config s.now h = true ∧
        ((attemptsLeft s.config h = true ∧
            checkTimer s = s.withQueue ({ h with retryCount := h.retryCount + 1, state := .retryPending } :: rest)) ∨
          (attemptsLeft s.config h = false ∧ checkTimer s = complete h .timeout none s)) := by
  unfold checkTimer headTimeout
  split
  · exact .inl rfl
  · rename_i h rest hq
    split
    · refine .inr ⟨h, rest, hq, ‹_›, ?_⟩
      split
      · exact .inl ⟨‹_›, rfl⟩
      · exact .inr ⟨by simpa using ‹¬ attemptsLeft s.config h = true›, rfl⟩
    · exact .inl rfl

@[simp] theorem checkTimer_config (s : State) : (checkTimer s).config = s.config := by
  rcases checkTimer_cases s with e | ⟨h, rest, -, -, ⟨-, e⟩ | ⟨-, e⟩⟩ <;> simp [e]
@[simp] theorem checkTimer_rx (s : State) : (checkTimer s).rx = s.rx := by
  rcases checkTimer_cases s with e | ⟨h, rest, -, -, ⟨-, e⟩ | ⟨-, e⟩⟩ <;> simp [e]
@[simp] theorem checkTimer_now (s : State) : (checkTimer s).now = s.now := by
  rcases checkTimer_cases s with e | ⟨h, rest, -, -, ⟨-, e⟩ | ⟨-, e⟩⟩ <;> simp [e]
@[simp] theorem checkTimer_inputs (s : State) : (checkTimer s).inputs = s.inputs := by
  rcases checkTimer_cases s with e | ⟨h, rest, -, -, ⟨-, e⟩ | ⟨-, e⟩⟩ <;> simp [e]

/-- `timedOut` read as the test of R166. -/
theorem timedOut_iff (c : Config) (now : Time) (t : Transaction) :
    timedOut c now t = true ↔ t.state = .waiting ∧ c.timeoutTicks ≤ elapsed c now t.issueTime := by
  simp [timedOut]

/-! ## States of a transaction -/

theorem wantsToSend_iff (t : Transaction) : t.wantsToSend = true ↔ t.state = .queued ∨ t.state = .retryPending := by
  simp [Transaction.wantsToSend]

theorem outstanding_iff (t : Transaction) : t.outstanding = true ↔ t.state ≠ .queued := by
  cases h : t.state <;> simp [Transaction.outstanding, h]

theorem wireBusy_iff (s : State) : wireBusy s = true ↔ s.txBuf ≠ [] := by
  simp [wireBusy, List.length_pos_iff]

theorem wireBusy_eq_false (s : State) : wireBusy s = false ↔ s.txBuf = [] := by
  cases h : s.txBuf <;> simp [wireBusy, h]

/-- The frame just loaded is never empty, so the wire is busy. -/
theorem wireForm_ne_nil (f : Frame) : wireForm f ≠ [] := by simp [wireForm]

end Sys2Proof.Machine
end

