-- ==== Sys2Proof/Laws/Feed.lean ====
section
/-! SUPPORT. Laws/Feed.lean: the received-byte operations as one: the row a byte selects runs the deframer's table of
R120 on that byte. -/

namespace Sys2Proof.Machine

/-- The row each byte selects, and the class of R82 it belongs to. -/
theorem decodeByte_cases : ∀ b : Byte,
    (decodeByte b = .feedColon ∧ byteClass b = .colon) ∨
    ((decodeByte b = .feedCr ∨ decodeByte b = .feedLf) ∧ byteClass b = .term) ∨
    (byteClass b = .hexDigit ∧
      ((∃ k, decodeByte b = .feedHex07 k ∧ hexByte07 k = b) ∨ (∃ k, decodeByte b = .feedHex89 k ∧ hexByte89 k = b) ∨
        (decodeByte b = .feedHexA ∧ b = 0x41) ∨ (∃ k, decodeByte b = .feedHexBC k ∧ hexByteBC k = b) ∨
        (∃ k, decodeByte b = .feedHexDE k ∧ hexByteDE k = b) ∨ (decodeByte b = .feedHexF ∧ b = 0x46))) ∨
    (decodeByte b = .feedOther b ∧ byteClass b = .other) := by
  decide

/-- RX_BYTE of a byte is the deframer's table of R120 inside the RX_BYTE envelope. -/
theorem exec_decodeByte (b : Byte) (s : State) :
    exec (decodeByte b) s = .next (rxEvent (Deframer.feed s.config b) s) := by
  rcases decodeByte_cases b with
    ⟨e, k⟩ | ⟨e | e, k⟩ | ⟨k, ⟨d, e, rfl⟩ | ⟨d, e, rfl⟩ | ⟨e, rfl⟩ | ⟨d, e, rfl⟩ | ⟨d, e, rfl⟩ | ⟨e, rfl⟩⟩ | ⟨e, k⟩ <;>
    simp only [e, exec, execFeedColon, execFeedCr, execFeedLf, execFeedHex07, execFeedHex89, execFeedHexA, execFeedHexBC,
      execFeedHexDE, execFeedHexF, execFeedOther, rxEvent, Deframer.feed, k]

/-- The three shapes of a received-byte operation. -/
theorem exec_feed_cases (i : Instr) (s : State) (hi : isFeed i = true) :
    (i = .feedColon ∧ exec i s = .next (rxEvent Deframer.onColon s)) ∨
    ((i = .feedCr ∨ i = .feedLf) ∧ exec i s = .next (rxEvent Deframer.onTerm s)) ∨
    (∃ d, digitOf i = some d ∧ exec i s = .next (rxEvent (Deframer.onHexDigit s.config d) s)) ∨
    (digitOf i = none ∧ (∃ b, i = .feedOther b) ∧ exec i s = .next (rxEvent Deframer.onOther s)) := by
  have h07 : ∀ k, hexVal (hexByte07 k) = BitVec.ofNat 4 k.toNat := by decide
  have h89 : ∀ k, hexVal (hexByte89 k) = BitVec.ofNat 4 (8 + k.toNat) := by decide
  have hBC : ∀ k, hexVal (hexByteBC k) = BitVec.ofNat 4 (11 + k.toNat) := by decide
  have hDE : ∀ k, hexVal (hexByteDE k) = BitVec.ofNat 4 (13 + k.toNat) := by decide
  have hA : hexVal 0x41 = 10 := by decide
  have hF : hexVal 0x46 = 15 := by decide
  cases i <;> first
    | (simp [isFeed] at hi; done)
    | exact .inl ⟨rfl, rfl⟩
    | exact .inr (.inl ⟨.inl rfl, rfl⟩)
    | exact .inr (.inl ⟨.inr rfl, rfl⟩)
    | exact .inr (.inr (.inr ⟨rfl, ⟨_, rfl⟩, rfl⟩))
    | exact .inr (.inr (.inl ⟨_, rfl, by
        simp only [exec, execFeedHex07, execFeedHex89, execFeedHexA, execFeedHexBC, execFeedHexDE, execFeedHexF, h07, h89,
          hA, hBC, hDE, hF]⟩))

/-! ## What the deframer's cases can answer -/

theorem onColon_result (r : Deframer) : r.onColon.2 = .noResult := rfl

theorem onHexDigit_result (c : Config) (d : Nibble) (r : Deframer) : (r.onHexDigit c d).2 = .noResult := by
  unfold Deframer.onHexDigit; split <;> rfl

theorem onOther_result (r : Deframer) : r.onOther.2 = .noResult := by
  unfold Deframer.onOther; split <;> rfl

/-- An RX_BYTE without a frame changes nothing of the engine. -/
theorem rxEvent_noFrame (case : Deframer → Deframer × RxResult) (s : State) (h : ∀ f, (case s.rx).2 ≠ .frame f) :
    rxEvent case s =
      { s.startEvent with rx := (case s.rx).1, out := { Outputs.quiet with rx := some (case s.rx).2 } } := by
  rcases rxEvent_cases case s with ⟨f, e, -⟩ | ⟨-, e⟩
  · exact absurd e (h f)
  · rw [e]; rfl

/-- A result of the deframer that is not NONE comes from a terminator in COLLECTING. -/
theorem rxEvent_frame_source (i : Instr) (s t : State) (hi : isFeed i = true) (h : exec i s = .next t) :
    ((i = .feedCr ∨ i = .feedLf) ∧ s.rx.state = .collecting ∧
        t = rxEvent (fun _ => (Deframer.idle, validate s.rx.nib s.rx.bad)) s) ∨
      (∃ r, t = { s.startEvent with rx := r, out := { Outputs.quiet with rx := some .noResult } }) := by
  have done : ∀ case : Deframer → Deframer × RxResult, (case s.rx).2 = .noResult → t = rxEvent case s →
      ∃ r, t = { s.startEvent with rx := r, out := { Outputs.quiet with rx := some .noResult } } := by
    intro case hn ht
    have := rxEvent_noFrame case s (by simp [hn])
    exact ⟨(case s.rx).1, by rw [ht, this, hn]⟩
  rcases exec_feed_cases i s hi with ⟨-, e⟩ | ⟨hi', e⟩ | ⟨d, -, e⟩ | ⟨-, -, e⟩ <;>
    (rw [e] at h; simp only [Host.Outcome.next.injEq] at h)
  · exact .inr (done _ (onColon_result _) h.symm)
  · cases hs : s.rx.state
    · exact .inr (done Deframer.onTerm (by simp [Deframer.onTerm, hs]) h.symm)
    · refine .inl ⟨hi', rfl, ?_⟩
      rw [← h]
      unfold rxEvent
      simp [Deframer.onTerm, hs, Deframer.idle, rxBadCleared]
  · exact .inr (done _ (onHexDigit_result _ _ _) h.symm)
  · exact .inr (done _ (onOther_result _) h.symm)

/-- The operation a received frame decodes to is the procedure OnFrame on that frame (log 13). -/
theorem exec_decodeReceived (f : Frame) (s : State) :
    exec (decodeReceived s.config f) s = .next (onFrame f s.startEvent) := by
  obtain ⟨cmd, address, flags, payload⟩ := f
  unfold decodeReceived
  split
  · next h => simp only at h; subst h; rfl
  split
  · next h => simp only at h; subst h; rfl
  split
  · next h => simp only at h; subst h; rfl
  · rfl

end Sys2Proof.Machine
end

