-- ==== Sys2Proof/Laws/PerInstr.lean ====
section
/-! SUPPORT. Laws/PerInstr.lean: per-operation facts about encodings: the port each operation's word belongs to is the
one the `format` column of `opcode_table.json` names. -/

namespace Sys2Proof.Laws.EncodedPort

/-- The `format` column of the opcode table. -/
inductive Format where
  | frame
  | reqPort
  | rxByte
  | event
deriving DecidableEq, Repr

/-- The format a port word belongs to. -/
def portFormat : PortWord → Format
  | .sent _ => .frame
  | .received _ => .frame
  | .req .. => .reqPort
  | .rx _ => .rxByte
  | .rst => .event
  | .tick => .event
  | .txReady => .event
  | .encode .. => .event

/-- The format of each row. -/
def rowFormat : Instr → Format
  | .get _ => .frame
  | .set _ _ => .frame
  | .ack _ _ _ => .frame
  | .nak _ _ _ => .frame
  | .err _ _ _ => .frame
  | .other _ _ _ _ => .frame
  | .reqNone => .reqPort
  | .reqGet _ _ => .reqPort
  | .reqSet _ _ _ _ => .reqPort
  | .cancel _ => .reqPort
  | .feedColon => .rxByte
  | .feedCr => .rxByte
  | .feedLf => .rxByte
  | .feedHex07 _ => .rxByte
  | .feedHex89 _ => .rxByte
  | .feedHexA => .rxByte
  | .feedHexBC _ => .rxByte
  | .feedHexDE _ => .rxByte
  | .feedHexF => .rxByte
  | .feedOther _ => .rxByte
  | .txByte => .event
  | .tick => .event
  | .reset => .event
  | .encode _ => .event

/-- The word of an operation belongs to the port its row names. -/
def Statement (i : Instr) : Prop := ∀ c : Config, portFormat (encode c i) = rowFormat i

theorem get (a : Addr) : Statement (.get a) := fun _ => rfl
theorem set (a : Addr) (p : List Byte) : Statement (.set a p) := fun _ => rfl
theorem ack (a : Addr) (f : Byte) (p : List Byte) : Statement (.ack a f p) := fun _ => rfl
theorem nak (a : Addr) (f : Byte) (p : List Byte) : Statement (.nak a f p) := fun _ => rfl
theorem err (a : Addr) (f : Byte) (p : List Byte) : Statement (.err a f p) := fun _ => rfl
theorem other (k : Byte) (a : Addr) (f : Byte) (p : List Byte) : Statement (.other k a f p) := fun _ => rfl
theorem reqNone : Statement .reqNone := fun _ => rfl
theorem reqGet (a : Addr) (t : Tag) : Statement (.reqGet a t) := fun _ => rfl
theorem reqSet (a : Addr) (n : BitVec 6) (d : List Byte) (t : Tag) : Statement (.reqSet a n d t) := fun _ => rfl
theorem cancel (t : Tag) : Statement (.cancel t) := fun _ => rfl
theorem feedColon : Statement .feedColon := fun _ => rfl
theorem feedCr : Statement .feedCr := fun _ => rfl
theorem feedLf : Statement .feedLf := fun _ => rfl
theorem feedHex07 (k : BitVec 3) : Statement (.feedHex07 k) := fun _ => rfl
theorem feedHex89 (k : BitVec 1) : Statement (.feedHex89 k) := fun _ => rfl
theorem feedHexA : Statement .feedHexA := fun _ => rfl
theorem feedHexBC (k : BitVec 1) : Statement (.feedHexBC k) := fun _ => rfl
theorem feedHexDE (k : BitVec 1) : Statement (.feedHexDE k) := fun _ => rfl
theorem feedHexF : Statement .feedHexF := fun _ => rfl
theorem feedOther (b : Byte) : Statement (.feedOther b) := fun _ => rfl
theorem txByte : Statement .txByte := fun _ => rfl
theorem tick : Statement .tick := fun _ => rfl
theorem reset : Statement .reset := fun _ => rfl
theorem encode (f : Frame) : Statement (.encode f) := fun _ => rfl

end Sys2Proof.Laws.EncodedPort
end

