-- ==== Sys2Proof/Tests/Slice0.lean ====
section
/-! SUPPORT. Tests/Slice0.lean: ill-formed terms refused, a word written out from the spec for every constructor, one
step per operation against the vectors of `95_test_vectors.md` (named E1, F1, Q1, T1, X1 as there), and for every
statement with hypotheses a witness that meets them. Expected values come from the spec, not from the model. -/

namespace Sys2Proof.Tests

open Sys2Proof.Machine

/-! ## Helpers -/

/-- The state after one operation. -/
def after (i : Instr) (s : State) : Option State :=
  match exec i s with
  | .next t => some t
  | .fault _ => none
  | .refused _ => none

/-- The state after one step. -/
def stepped (s : State) : Option State :=
  match step s with
  | .next t => some t
  | .fault _ => none
  | .refused _ => none

/-- The state after one clock cycle. -/
def clocked (p : Pins) (s : State) : Option State :=
  match clock p s with
  | .next t => some t
  | .fault _ => none
  | .refused _ => none

/-- What an operation decodes to, if anything. -/
def read (w : PortWord) : Option Instr :=
  match decode Config.spec w with
  | .ok i => some i
  | .error _ => none

/-- `(GET, 0x2015, tag 1, WAITING, 0, 0)`, the head of the rows of section 2.4. -/
def waitingGet : Transaction :=
  { op := .get, address := 0x2015, len := 0, data := [], tag := 1, state := .waiting, issueTime := 0, retryCount := 0 }

/-- `(GET, 0x2016, tag 12, QUEUED, 0, 0)`. -/
def queuedGet : Transaction :=
  { op := .get, address := 0x2016, len := 0, data := [], tag := 12, state := .queued, issueTime := 0, retryCount := 0 }

/-- A SET of raw 300 that has not been sent. -/
def queuedSet : Transaction :=
  { op := .set, address := 0x2015, len := 2, data := [0x2C, 0x01], tag := 2, state := .queued, issueTime := 0
    retryCount := 0 }

/-- The start of the rows of section 2.4: one request, sent, no answer yet. -/
def waiting : State := { State.reset with queue := [waitingGet] }

/-- A block that collects a line and has these digits. -/
def collecting (nib : List Nibble) : State :=
  { State.reset with rx := { state := .collecting, nib := nib, bad := false } }

/-- The digits of `01152000FA00D0` (E3). -/
def ackDigits : List Nibble := [0, 1, 1, 5, 2, 0, 0, 0, 0xF, 0xA, 0, 0, 0xD, 0]

/-- The 13 bytes of `":07152000C4\r\n"`, written out in the spec after E19. -/
def wireE1 : List Byte := [0x3A, 0x30, 0x37, 0x31, 0x35, 0x32, 0x30, 0x30, 0x30, 0x43, 0x34, 0x0D, 0x0A]

/-- The 17 bytes of `":081520002C0196\r\n"`, written out in the spec after E19. -/
def wireE2 : List Byte :=
  [0x3A, 0x30, 0x38, 0x31, 0x35, 0x32, 0x30, 0x30, 0x30, 0x32, 0x43, 0x30, 0x31, 0x39, 0x36, 0x0D, 0x0A]

/-- `":01152000CA\r\n"` (E5). -/
def wireE5 : List Byte := [0x3A, 0x30, 0x31, 0x31, 0x35, 0x32, 0x30, 0x30, 0x30, 0x43, 0x41, 0x0D, 0x0A]

/-- A four-deep queue, full. -/
def full : State := { State.reset with queue := [waitingGet, queuedGet, queuedGet, queuedGet] }

/-- No pin asserted. -/
def quietPins : Pins :=
  { rst := false, rxValid := false, rxData := 0, tick := false, reqValid := false, reqOp := 0, reqAddr := 0, reqLen := 0
    reqData := 0, reqTag := 0, txReady := false }

/-! ## Ill-formed terms are refused -/

theorem test_wf_set_too_long : (Instr.set 0 (List.replicate 33 0)).wf Config.spec = false := by decide
theorem test_wf_set_32 : (Instr.set 0 (List.replicate 32 0)).wf Config.spec = true := by decide
theorem test_wf_ack_too_long : (Instr.ack 0 0 (List.replicate 33 0)).wf Config.spec = false := by decide
theorem test_wf_nak_too_long : (Instr.nak 0 0 (List.replicate 33 0)).wf Config.spec = false := by decide
theorem test_wf_err_too_long : (Instr.err 0 0 (List.replicate 33 0)).wf Config.spec = false := by decide
theorem test_wf_other_too_long : (Instr.other 0xF9 0 0 (List.replicate 33 0)).wf Config.spec = false := by decide
theorem test_wf_other_response_code :
    (Instr.other 0x01 0 0 []).wf Config.spec = false ∧ (Instr.other 0x03 0 0 []).wf Config.spec = false ∧
      (Instr.other 0x04 0 0 []).wf Config.spec = false := by decide
theorem test_wf_reqGet_tag : (Instr.reqGet 0 256).wf Config.spec = false := by decide
theorem test_wf_reqSet_tag : (Instr.reqSet 0 0 (List.replicate 32 0) 256).wf Config.spec = false := by decide
theorem test_wf_reqSet_lanes : (Instr.reqSet 0 0 [] 0).wf Config.spec = false := by decide
theorem test_wf_cancel_tag : (Instr.cancel 256).wf Config.spec = false := by decide
theorem test_wf_feedOther_class :
    [0x3A, 0x0D, 0x0A, 0x30, 0x39, 0x41, 0x46].all (fun b => !(Instr.feedOther b).wf Config.spec) = true ∧
      [0x2F, 0x40, 0x47, 0x61, 0x66].all (fun b => (Instr.feedOther b).wf Config.spec) = true := by decide

/-! ## Decoding of words written out from the spec -/

/-- E1. -/
theorem test_decode_get : read (.sent [0x07, 0x15, 0x20, 0x00, 0xC4]) = some (.get 0x2015) := by decide
/-- E11. -/
theorem test_decode_set :
    read (.sent [0x08, 0xF0, 0xED, 0x00, 0x01, 0x00, 0x00, 0x00, 0x1A]) =
      some (.set 0xEDF0 [0x01, 0x00, 0x00, 0x00]) := by decide
/-- E14. -/
theorem test_decode_ack : read (.received [0x01, 0x15, 0x20, 0x00, 0x7F, 0x4B]) = some (.ack 0x2015 0x00 [0x7F]) := by
  decide
/-- E6. -/
theorem test_decode_nak : read (.received [0x03, 0x15, 0x20, 0x02, 0xC6]) = some (.nak 0x2015 0x02 []) := by decide
/-- E7. -/
theorem test_decode_err : read (.received [0x04, 0x15, 0x20, 0x00, 0xC7]) = some (.err 0x2015 0x00 []) := by decide
/-- E16; T6 as a received frame. -/
theorem test_decode_other :
    read (.received [0xF9, 0x07, 0x00, 0x00, 0x00]) = some (.other 0xF9 0x0007 0x00 []) ∧
      read (.received [0x07, 0x15, 0x20, 0x00, 0xC4]) = some (.other 0x07 0x2015 0x00 []) := by decide
/-- A wrong checksum, four bytes, a GET with a payload (R76, R81, R91). -/
theorem test_decode_rejects :
    read (.received [0x01, 0x15, 0x20, 0x00, 0xFA, 0x00, 0xD1]) = none ∧ read (.received [0x07, 0x15, 0x20, 0xC4]) = none ∧
      read (.sent [0x07, 0x15, 0x20, 0x00, 0x01, 0xC3]) = none := by decide
/-- R86, `req_op` 0, 1, 2, 3. -/
theorem test_decode_reqNone : read (.req 0b00 0x2015 2 5 7) = some .reqNone := by decide
theorem test_decode_reqGet : read (.req 0b01 0x2015 2 5 7) = some (.reqGet 0x2015 7) := by decide
theorem test_decode_reqSet :
    read (.req 0b10 0x2015 2 0x012C 7) = some (.reqSet 0x2015 2 ([0x2C, 0x01] ++ List.replicate 30 0) 7) := by decide
theorem test_decode_cancel : read (.req 0b11 0x2015 2 5 7) = some (.cancel 7) := by decide
/-- R82: one byte for each row, at both ends of a range. -/
theorem test_decode_feedColon : read (.rx 0b00111010) = some .feedColon := by decide
theorem test_decode_feedCr : read (.rx 0b00001101) = some .feedCr := by decide
theorem test_decode_feedLf : read (.rx 0b00001010) = some .feedLf := by decide
theorem test_decode_feedHex07 : read (.rx 0b00110000) = some (.feedHex07 0) ∧ read (.rx 0b00110111) = some (.feedHex07 7) := by
  decide
theorem test_decode_feedHex89 : read (.rx 0b00111000) = some (.feedHex89 0) ∧ read (.rx 0b00111001) = some (.feedHex89 1) := by
  decide
theorem test_decode_feedHexA : read (.rx 0b01000001) = some .feedHexA := by decide
theorem test_decode_feedHexBC : read (.rx 0b01000010) = some (.feedHexBC 0) ∧ read (.rx 0b01000011) = some (.feedHexBC 1) := by
  decide
theorem test_decode_feedHexDE : read (.rx 0b01000100) = some (.feedHexDE 0) ∧ read (.rx 0b01000101) = some (.feedHexDE 1) := by
  decide
theorem test_decode_feedHexF : read (.rx 0b01000110) = some .feedHexF := by decide
theorem test_decode_feedOther : read (.rx 0b01100001) = some (.feedOther 0x61) ∧ read (.rx 0x47) = some (.feedOther 0x47) := by
  decide
theorem test_decode_txByte : read .txReady = some .txByte := by decide
theorem test_decode_tick : read .tick = some .tick := by decide
theorem test_decode_reset : read .rst = some .reset := by decide
theorem test_decode_encode : read (.encode 0x07 0x2015 0 []) = some (.encode ⟨0x07, 0x2015, 0, []⟩) := by decide

/-- Every row of the opcode table by its number: the row's own operation, but for REQ_GET and CANCEL, whose 8-bit numbers
are also those of ACK and NAK and which their own width of 2 bits tells apart (log 6). -/
theorem test_table_numbers :
    decodeTableWord 8 0x07 = some (.get 0) ∧ decodeTableWord 8 0x08 = some (.set 0 []) ∧
      decodeTableWord 8 0x04 = some (.err 0 0 []) ∧ decodeTableWord 8 0x00 = some .reqNone ∧
      decodeTableWord 2 0x1 = some (.reqGet 0 0) ∧ decodeTableWord 2 0x3 = some (.cancel 0) ∧
      decodeTableWord 8 0x3A = some .feedColon ∧ decodeTableWord 8 0x45 = some (.feedHexDE 1) ∧
      decodeTableWord 8 0xFF = some (.feedOther 0xFF) ∧ decodeTableWord 32 0x00201501 = some (.ack 0x2015 0 []) := by
  decide

/-! ## One step of each operation -/

/-- E1: the GET frame the head wants sent. -/
theorem test_get : (after (.get 0x2016) { State.reset with queue := [queuedGet] }).map (·.txBuf) =
    some [0x3A, 0x30, 0x37, 0x31, 0x36, 0x32, 0x30, 0x30, 0x30, 0x43, 0x33, 0x0D, 0x0A] := by decide
/-- E2. -/
theorem test_set : (after (.set 0x2015 [0x2C, 0x01]) { State.reset with queue := [queuedSet] }).map (·.txBuf) = some wireE2 := by
  decide
/-- T1. -/
theorem test_ack : (after (.ack 0x2015 0 [0xFA, 0x00]) waiting).map (fun t => (t.queue, t.out.cpl)) =
    some ([], some ⟨1, .ok, 0x01, 0x00, 2, [0xFA, 0x00]⟩) := by decide
/-- T5. -/
theorem test_ack_other_address : (after (.ack 0x2016 0 [0xFA, 0x00]) waiting).map (fun t => (t.queue, t.out.cpl)) =
    some ([waitingGet], none) := by decide
/-- T3. -/
theorem test_nak : (after (.nak 0x2015 2 []) waiting).map (fun t => (t.queue, t.out.cpl)) =
    some ([], some ⟨1, .rejected, 0x03, 0x02, 0, []⟩) := by decide
/-- T4. -/
theorem test_err : (after (.err 0x2015 0 []) waiting).map (fun t => (t.queue, t.out.cpl)) =
    some ([], some ⟨1, .rejected, 0x04, 0x00, 0, []⟩) := by decide
/-- T6, T7. -/
theorem test_other : (after (.other 0xF9 0x2015 0 []) waiting).map (fun t => (t.queue, t.out.cpl)) = some ([waitingGet], none) ∧
    (after (.other 0x07 0x2015 0 []) waiting).map (fun t => (t.queue, t.out.cpl)) = some ([waitingGet], none) := by decide
/-- R86. -/
theorem test_reqNone : (after .reqNone waiting).map (fun t => (t.queue, t.out.reqStatus)) =
    some ([waitingGet], some .accepted) := by decide
/-- Step 1 of P1. -/
theorem test_reqGet : (after (.reqGet 0x2015 1) State.reset).map (fun t => (t.queue, t.txBuf, t.out.reqStatus)) =
    some ([waitingGet], wireE1, some .accepted) := by decide
/-- Q7, the fifth request. -/
theorem test_reqGet_full : (after (.reqGet 0x2015 5) full).map (fun t => (t.queue, t.out.reqStatus)) =
    some (full.queue, none) := by decide
/-- Step 2 of P2. -/
theorem test_reqSet :
    (after (.reqSet 0x2015 2 ([0x2C, 0x01] ++ List.replicate 30 0) 2) State.reset).map (fun t => (t.queue, t.txBuf)) =
      some ([{ queuedSet with state := .waiting }], wireE2) := by decide
/-- Q3. -/
theorem test_reqSet_too_long :
    (after (.reqSet 0x2015 33 (List.replicate 32 0) 1) State.reset).map (fun t => (t.queue, t.txBuf, t.out.reqStatus)) =
      some ([], [], some .encodeError) := by decide
/-- Q9. -/
theorem test_cancel : (after (.cancel 12) { waiting with queue := [waitingGet, queuedGet, queuedSet] }).map (·.queue) =
    some [waitingGet, queuedSet] := by decide
/-- Q10 and P6: the head cancelled while its frame is in the transmitter. -/
theorem test_cancel_head : (after (.cancel 1) { waiting with queue := [waitingGet, queuedGet], txBuf := wireE1 }).map
    (fun t => (t.queue, t.txBuf, t.out.cpl)) = some ([queuedGet], wireE1, none) := by decide
/-- R121's example. -/
theorem test_feedColon : (after .feedColon (collecting [0, 7, 1])).map (·.rx) =
    some { state := .collecting, nib := [], bad := false } := by decide
/-- R126's example, with its engine effect (T1). -/
theorem test_feedCr : (after .feedCr { collecting ackDigits with queue := [waitingGet] }).map (fun t => (t.rx, t.out.cpl)) =
    some (Deframer.idle, some ⟨1, .ok, 0x01, 0x00, 2, [0xFA, 0x00]⟩) := by decide
/-- F8: no digits. -/
theorem test_feedLf : (after .feedLf (collecting [])).map (fun t => (t.rx, t.out.rx)) =
    some (Deframer.idle, some .malformedErr) := by decide
/-- R122's example. -/
theorem test_feedLf_idle : (after .feedLf waiting).map (fun t => (t.rx, t.queue, t.out.rx)) =
    some (Deframer.idle, [waitingGet], some .noResult) := by decide
/-- R123's example, and each other row's digits. -/
theorem test_feedHex07 : (after (.feedHex07 7) (collecting [0])).map (·.rx.nib) = some [0, 7] := by decide
theorem test_feedHex89 : (after (.feedHex89 1) (collecting [0])).map (·.rx.nib) = some [0, 9] := by decide
theorem test_feedHexA : (after .feedHexA (collecting [0])).map (·.rx.nib) = some [0, 10] := by decide
theorem test_feedHexBC : (after (.feedHexBC 1) (collecting [0])).map (·.rx.nib) = some [0, 12] := by decide
theorem test_feedHexDE : (after (.feedHexDE 0) (collecting [0])).map (·.rx.nib) = some [0, 13] := by decide
theorem test_feedHexF : (after .feedHexF (collecting [0])).map (·.rx.nib) = some [0, 15] := by decide
/-- F18: the 75th digit is dropped and marks the line. -/
theorem test_feedHex_overflow : (after (.feedHex07 0) (collecting (List.replicate 74 0xF))).map (fun t => (t.rx.nib.length, t.rx.bad)) =
    some (74, true) := by decide
/-- R124's example. -/
theorem test_feedOther : (after (.feedOther 0x67) (collecting [1])).map (·.rx) =
    some { state := .collecting, nib := [1], bad := true } := by decide
/-- Step 1 of P8. -/
theorem test_txByte : (after .txByte { waiting with txBuf := wireE1 }).map (fun t => (t.txBuf, t.out.txData)) =
    some (wireE1.tail, some 0x3A) := by decide
/-- Q10: the last byte of a frame loads the waiting head's frame. -/
theorem test_txByte_loads : (after .txByte { State.reset with queue := [queuedSet], txBuf := [0x0A] }).map
    (fun t => (t.txBuf, t.queue, t.out.txData)) = some (wireE2, [{ queuedSet with state := .waiting }], some 0x0A) := by decide
/-- T10: the 500th tick. -/
theorem test_tick : (after .tick { waiting with now := 499 }).map (fun t => (t.now, t.queue, t.txBuf, t.out.cpl)) =
    some (500, [{ waitingGet with issueTime := 500, retryCount := 1 }], wireE1, none) := by decide
/-- T12. -/
theorem test_tick_last :
    (after .tick { waiting with now := 1499, queue := [{ waitingGet with issueTime := 1000, retryCount := 2 }] }).map
      (fun t => (t.now, t.queue, t.txBuf, t.out.cpl)) = some (1500, [], [], some ⟨1, .timeout, 0x00, 0x00, 0, []⟩) := by
  decide
/-- X1. -/
theorem test_reset : (after .reset { full with txBuf := wireE1, now := 5, rx := (collecting [1, 2]).rx }).map
    (fun t => (t.rx, t.txBuf, t.queue, t.now, t.out.cpl)) = some (Deframer.idle, [], [], 0, none) := by decide
/-- E2, E5. -/
theorem test_encode : (after (.encode ⟨0x08, 0x2015, 0, [0x2C, 0x01]⟩) State.reset).map (·.out.encoded) =
    some (some (.bytes wireE2)) ∧
    (after (.encode ⟨0x01, 0x2015, 0, []⟩) State.reset).map (·.out.encoded) = some (some (.bytes wireE5)) := by decide
/-- E19. -/
theorem test_encode_33 : (after (.encode ⟨0x08, 0x2015, 0, List.replicate 33 0⟩) State.reset).map (·.out.encoded) =
    some (some .encodeError) := by decide
/-- The time wrap of section 2.4: the 500th tick after 0xFFFFFF9C. -/
theorem test_tick_wrap :
    (after .tick { waiting with now := 399, queue := [{ waitingGet with issueTime := 0xFFFFFF9C }] }).map
      (fun t => (t.now, t.queue.map (·.issueTime))) = some (400, [400]) := by decide
/-- X2: response and tick in one cycle. -/
theorem test_cycle_response_first :
    (clocked { quietPins with rxValid := true, rxData := 0x0D, tick := true }
      { collecting ackDigits with queue := [waitingGet], now := 499 }).map (fun t => (t.now, t.queue, t.out.cpl)) =
      some (500, [], some ⟨1, .ok, 0x01, 0x00, 2, [0xFA, 0x00]⟩) := by decide
/-- X4: `rst` with a request. -/
theorem test_cycle_reset_alone :
    (clocked { quietPins with rst := true, reqValid := true, reqOp := 1, reqAddr := 0x2015, reqTag := 1 } State.reset).map
      (fun t => (t.queue, t.out.reqStatus)) = some ([], none) := by decide
/-- R54's example and S6's current value: little-endian. -/
theorem test_rawValue : rawValue [0x2C, 0x01] = 300 ∧ rawValue [0xFA, 0x00] = 250 := by decide
/-- R101, F14, F10: the checksum of two 0x80; noise and a malformed line before a frame. -/
theorem test_decodeWire :
    checksum [0x80, 0x80] = 0x00 ∧
      decodeWire Config.spec ([0x78, 0x78, 0x3A, 0x79, 0x79, 0x0D] ++ wireE5) =
        [.malformedErr, .frame ⟨0x01, 0x2015, 0x00, []⟩] := by decide
/-- The step runs the operation that stands first in the schedule. -/
theorem test_step : (stepped (State.reset.withFetchWord 8 0x3A)).map (·.rx.state) = some .collecting := by decide
/-- R142: a request that finds the queue full waits, and the tick behind it goes first. -/
theorem test_step_held : (stepped { full with inputs := [.req 1 0x2015 0 0 5, .tick] }).map (·.inputs) =
    some [.tick, .req 1 0x2015 0 0 5] := by decide

/-! ## Witnesses: the hypotheses of each statement are met -/

/-- The start of the rows of section 2.4 is a state of the invariant. -/
theorem inv_waiting : waiting.Inv :=
  ⟨by decide, by simp [waiting, State.reset, Deframer.idle, Deframer.Ok],
    ⟨⟨0x07, 0x2015, 0, []⟩, by decide, List.nil_suffix⟩, by decide, by simp [waiting, waitingGet, Transaction.Ok, State.reset, Config.spec],
    by simp [waiting, TailQueued], by decide, by
      intro h rest hq hw
      simp [waiting] at hq
      obtain ⟨rfl, -⟩ := hq
      exact absurd hw (by decide)⟩

/-- The same while the answer E3 is being received. -/
theorem inv_answering : ({ collecting ackDigits with queue := [waitingGet] } : State).Inv :=
  ⟨by decide, by simp [collecting, Deframer.Ok, State.reset]; decide,
    ⟨⟨0x07, 0x2015, 0, []⟩, by decide, List.nil_suffix⟩, by decide, by simp [waitingGet, Transaction.Ok, collecting, State.reset, Config.spec],
    by simp [TailQueued], by decide, by
      intro h rest hq hw
      simp at hq
      obtain ⟨rfl, -⟩ := hq
      exact absurd hw (by decide)⟩

/-- The head's frame has just been loaded (step 1 of P1), and `behind` waits. -/
def loaded (behind : List Transaction) : State := { waiting with txBuf := wireE1, queue := waitingGet :: behind }

theorem inv_loaded : (loaded []).Inv ∧ (loaded [queuedGet]).Inv := by
  refine ⟨⟨by decide, ?_, ⟨⟨0x07, 0x2015, 0, []⟩, by decide, ⟨[], by decide⟩⟩, by decide, ?_, ?_, by decide, ?_⟩,
    ⟨by decide, ?_, ⟨⟨0x07, 0x2015, 0, []⟩, by decide, ⟨[], by decide⟩⟩, by decide, ?_, ?_, by decide, ?_⟩⟩
  any_goals exact fun _ _ _ _ => rfl
  all_goals
    simp [loaded, waiting, waitingGet, queuedGet, Transaction.Ok, TailQueued, Deframer.Ok, Deframer.idle, State.reset,
      Config.spec]

/-- One unanswered attempt of a 13-byte frame: ticks, the bytes late, the tick of the timeout. -/
theorem silent_loaded :
    ∀ a ∈ List.replicate 3 (List.replicate 499 Instr.tick ++ List.replicate 13 .txByte ++ [.tick]),
      SilentAttempt Config.spec 13 a := by
  intro a ha
  rw [List.eq_of_mem_replicate ha]
  exact ⟨_, rfl, List.Perm.refl _⟩

theorem witness_ResetEmptiesTheBlock : ({ quietPins with rst := true } : Pins).rst = true := by decide

theorem witness_ResetStateHasTheValuesOfTheResetTable :
    State.reset.config.Valid ∧ (after .reset waiting).map (·.config) = some Config.spec := by decide

theorem witness_EncodeProducesTheWireForm :
    (List.replicate 32 (0xFF : Byte)).length ≤ Config.spec.maxPayload ∧ ([] : List Byte).length ≤ Config.spec.maxPayload := by
  decide

theorem witness_EncodeErrorExactlyWhenPayloadTooLong :
    Config.spec.maxPayload < (List.replicate 33 (0 : Byte)).length ∧
      encodeFrame Config.spec ⟨0, 0, 0, List.replicate 33 0⟩ = .encodeError := by decide

theorem witness_DecodeOfEncodeIsTheFrame :
    encodeFrame Config.spec ⟨0x07, 0x2015, 0, []⟩ = .bytes wireE1 ∧
      encodeFrame Config.spec ⟨0x08, 0x2015, 0, [0x2C, 0x01]⟩ = .bytes wireE2 := by decide

theorem witness_WireOrderIsLittleEndianHighDigitFirst :
    0 < (⟨0x01, 0x2015, 0, [0xFA, 0x00]⟩ : Frame).payload.length ∧
      (frameBytes ⟨0x01, 0x2015, 0, [0xFA, 0x00]⟩)[6]? = some 0xD0 := by decide

theorem witness_ByteClassesPartitionTheBytes :
    ((0x61 : Byte) ≤ 0x61 ∧ (0x61 : Byte) ≤ 0x66) ∧ byteClass 0x46 = .hexDigit ∧ byteClass 0x30 = .hexDigit := by decide

theorem witness_IdleIgnoresEveryByteButColon :
    State.reset.rx.state = .idle ∧ (0x39 : Byte) ≠ 0x3A ∧ isFeed .feedCr = true ∧ Instr.feedCr ≠ .feedColon := by decide

theorem witness_HexDigitIsCollected :
    digitOf (.feedHex07 7) = some 7 ∧ digitOf .feedHexF = some 15 ∧ (collecting []).rx.state = .collecting ∧
      (collecting (List.replicate 73 0)).rx.nib.length < Config.spec.maxHexChars ∧
      ¬ (collecting (List.replicate 74 0)).rx.nib.length < Config.spec.maxHexChars := by decide

theorem witness_OtherByteMarksTheLineBad : (collecting []).rx.state = .collecting ∧ byteClass 0x67 = .other := by decide

theorem witness_TerminatorValidatesAndReturnsToIdle :
    (collecting ackDigits).rx.state = .collecting ∧
      validate ackDigits false = .frame ⟨0x01, 0x2015, 0, [0xFA, 0x00]⟩ ∧ validate [] false = .malformedErr ∧
      decodeReceived Config.spec ⟨0x01, 0x2015, 0, [0xFA, 0x00]⟩ = .ack 0x2015 0 [0xFA, 0x00] := by decide

/-- R126's corner cases: 9, 8 and 10 digits. -/
theorem witness_ValidateGivesTheVerdictOfTheRule :
    validate (List.replicate 9 0) false = .malformedErr ∧ validate (List.replicate 8 0) false = .malformedErr ∧
      validate (List.replicate 10 0) true = .malformedErr ∧ validate (List.replicate 10 0) false = .frame ⟨0, 0, 0, []⟩ ∧
      validate (1 :: List.replicate 9 0) false = .checksumErr := by decide

theorem witness_NoiseBeforeAFrameDoesNotHideIt :
    ([] : List Byte).length ≤ Config.spec.maxPayload ∧
      RxResult.frame ⟨0x01, 0x2015, 0, []⟩ ∈ decodeWire Config.spec ([0x56, 0x0D] ++ wireE5) := by decide

theorem witness_DecoderAndEngineAreIndependent :
    isFeed .tick = false ∧ Instr.tick ≠ .reset ∧ (after .tick waiting).isSome = true ∧ isFeed .feedCr = true ∧
      waiting.config = State.reset.config ∧ waiting.rx = State.reset.rx ∧ (after .feedCr waiting).isSome = true ∧
      (after .feedCr State.reset).isSome = true := by decide

theorem witness_FrameBytesActAsTheFrame :
    (List.replicate 32 (0xFF : Byte)).length ≤ waiting.config.maxPayload ∧
      decodeReceived waiting.config ⟨0x03, 0x2015, 2, []⟩ = .nak 0x2015 2 [] ∧
      decodeReceived waiting.config ⟨0x07, 0x2015, 0, []⟩ = .other 0x07 0x2015 0 [] := by decide

theorem witness_TxByteTakesTheFirstByte :
    ({ waiting with txBuf := [0x0D, 0x0A] } : State).txBuf = 0x0D :: [0x0A] ∧ [(0x0A : Byte)] ≠ [] ∧
      ({ waiting with txBuf := [0x0A] } : State).txBuf = 0x0A :: [] ∧ waiting.txBuf = [] := by decide

theorem witness_LoadedFrameIsSentWhole :
    Instr.tick ≠ .reset ∧ Instr.tick ≠ .txByte ∧ ({ waiting with txBuf := [0x0A] } : State).txBuf = 0x0A :: [] ∧
      (after .tick { waiting with txBuf := [0x0A] }).isSome = true ∧
      (after .txByte { waiting with txBuf := [0x0A] }).isSome = true ∧
      (after .txByte { waiting with txBuf := [0x0D, 0x0A] }).isSome = true := by decide

theorem witness_TryIssueLoadsTheHeadWhenItCan :
    ({ waiting with queue := [queuedGet] } : State).queue = queuedGet :: [] ∧ queuedGet.state = .queued ∧
      waiting.txBuf = [] ∧ queuedGet.len ≤ waiting.config.maxPayload ∧ waiting.queue = waitingGet :: [] ∧
      waitingGet.state = .waiting ∧ State.reset.queue = [] ∧ ({ waiting with txBuf := [0x0A] } : State).txBuf ≠ [] := by
  decide

theorem witness_EveryAttemptSendsTheSameFrame : queuedGet.op = .get ∧ queuedSet.op = .set := by decide

theorem witness_RequestFramesAreSentForTheHead :
    queuedGet.state = .queued ∧ State.reset.txBuf = [] ∧ queuedGet.op = .get ∧ queuedSet.state = .queued ∧
      queuedSet.op = .set ∧ queuedSet.data.length = queuedSet.len ∧ queuedSet.len ≤ State.reset.config.maxPayload ∧
      queuedGet.address ≠ 0x2017 ∧ waitingGet.state = .waiting ∧ State.reset.queue = [] ∧
      State.reset.config.CodesDistinct ∧ ({ waiting with txBuf := [0x0A] } : State).txBuf ≠ [] ∧
      [(0x2C : Byte)] ≠ queuedSet.data.take queuedSet.len := by decide

theorem witness_ReqGetAppendsATransaction :
    State.reset.queue.length < State.reset.config.qDepth ∧ State.reset.queue = [] ∧ State.reset.txBuf = [] ∧
      ({ full with queue := full.queue.tail } : State).queue.length < full.config.qDepth := by decide

theorem witness_ReqSetAppendsATransactionOrIsRefused :
    State.reset.queue.length < State.reset.config.qDepth ∧ State.reset.config.maxPayload < (33 : BitVec 6).toNat ∧
      (32 : BitVec 6).toNat ≤ State.reset.config.maxPayload ∧ State.reset.queue = [] ∧ State.reset.txBuf = [] := by decide

theorem witness_CancelDestroysTheTag :
    (after (.cancel 1) { waiting with txBuf := wireE1 }).isSome = true ∧
      ({ waiting with txBuf := wireE1 } : State).txBuf ≠ [] := by decide

theorem witness_RequestPortSelectsTheOperation :
    255 < 2 ^ Config.spec.wTag ∧ State.reset.queue.length < State.reset.config.qDepth := by decide

theorem witness_RequestWaitsWhileTheQueueIsFull :
    full.config.qDepth ≤ full.queue.length ∧ full.config.Valid ∧ (1 : BitVec 2) ≠ 3 ∧
      ({ full with inputs := [.req 1 0 0 0 0, .tick] } : State).inputs = .req 1 0 0 0 0 :: [.tick] := by decide

/-- R161: an empty queue, a head never sent, another address. -/
theorem witness_UnmatchedFrameIsDropped :
    State.reset.queue = [] ∧ ({ waiting with queue := [queuedGet] } : State).queue = queuedGet :: [] ∧
      queuedGet.state = .queued ∧ waiting.queue = waitingGet :: [] ∧ (0x2016 : Addr) ≠ waitingGet.address := by decide

theorem witness_AckCompletesTheHead :
    waiting.queue = waitingGet :: [] ∧ waitingGet.state = .waiting ∧
      ({ waitingGet with state := .retryPending } : Transaction).state = .retryPending := by decide

theorem witness_NakRejectsTheHead :
    waiting.config.CodesDistinct ∧ waiting.queue = waitingGet :: [] ∧ waitingGet.state = .waiting := by decide

theorem witness_ErrRejectsTheHead :
    waiting.config.CodesDistinct ∧ full.queue = waitingGet :: full.queue.tail ∧ waitingGet.state = .waiting := by decide

theorem witness_OtherFrameIsDropped :
    (0xF9 : Byte) ≠ waiting.config.cmdAck ∧ (0xF9 : Byte) ≠ waiting.config.cmdNak ∧ (0xF9 : Byte) ≠ waiting.config.cmdErr ∧
      waiting.config.CodesDistinct ∧ (⟨0x07, 0x2015, 0, []⟩ : Frame).cmd = waiting.config.cmdGet := by decide

theorem witness_MatchingIgnoresFlagsPayloadAndKind :
    (⟨0x01, 0x2015, 0, []⟩ : Frame).cmd = (⟨0x01, 0x2015, 5, [7]⟩ : Frame).cmd ∧
      (⟨0x01, 0x2015, 0, []⟩ : Frame).address = (⟨0x01, 0x2015, 5, [7]⟩ : Frame).address ∧
      waiting.queue = waitingGet :: [] := by decide

/-- The 499th tick. -/
theorem witness_TickAdvancesTime :
    waiting.queue = waitingGet :: [] ∧ waitingGet.state = .waiting ∧
      elapsed Config.spec ((498 + 1) % 2 ^ Config.spec.wTime) waitingGet.issueTime <
        Config.spec.timeoutMs / Config.spec.tickMs := by decide

/-- The 500th tick, wire free and wire busy. -/
theorem witness_TimeoutWithAttemptsLeftRetries :
    waiting.queue = waitingGet :: [] ∧ waitingGet.state = .waiting ∧
      Config.spec.timeoutMs / Config.spec.tickMs ≤
        elapsed Config.spec ((499 + 1) % 2 ^ Config.spec.wTime) waitingGet.issueTime ∧
      waitingGet.retryCount + 1 < Config.spec.maxAttempts ∧ waiting.txBuf = [] ∧
      waitingGet.len ≤ Config.spec.maxPayload ∧ ({ waiting with txBuf := [0x0A] } : State).txBuf ≠ [] := by decide

theorem witness_LastTimeoutCompletesTheHead :
    waitingGet.state = .waiting ∧
      Config.spec.timeoutMs / Config.spec.tickMs ≤
        elapsed Config.spec ((499 + 1) % 2 ^ Config.spec.wTime) waitingGet.issueTime ∧
      Config.spec.maxAttempts ≤ ({ waitingGet with retryCount := 2 } : Transaction).retryCount + 1 ∧
      (after .tick { waiting with now := 499, txBuf := [0x0A], queue := [{ waitingGet with retryCount := 2 }] }).isSome =
        true := by decide

/-- The last value of the counter. -/
theorem witness_ElapsedTimeIsCorrectAcrossTheWrap :
    2 ^ 32 - 1 < 2 ^ Config.spec.wTime ∧ 500 < 2 ^ Config.spec.wTime ∧
      elapsed Config.spec ((2 ^ 32 - 1 + 500) % 2 ^ Config.spec.wTime) (2 ^ 32 - 1) = 500 := by decide

theorem witness_AttemptTimesOutOnTheThresholdTick :
    waiting.config.Valid ∧ waiting.queue = waitingGet :: [] ∧ waitingGet.state = .waiting ∧
      waitingGet.issueTime = waiting.now ∧ waiting.now < 2 ^ waiting.config.wTime ∧
      waiting.config.timeoutTicks < 2 ^ waiting.config.wTime ∧ 499 < waiting.config.timeoutTicks ∧
      waitingGet.retryCount + 1 < waiting.config.maxAttempts ∧
      waiting.config.maxAttempts ≤ ({ waitingGet with retryCount := 2 } : Transaction).retryCount + 1 := by decide

/-- With nothing behind the request and with one request behind it. -/
theorem witness_UnansweredRequestFailsAfterAllAttempts :
    (∀ behind, behind = [] ∨ behind = [queuedGet] → (loaded behind).Inv ∧ (loaded behind).queue = waitingGet :: behind ∧
      (loaded behind).txBuf = wireForm (frameOf (loaded behind).config waitingGet) ∧
      (wireForm (frameOf (loaded behind).config waitingGet)).length = 13 ∧ waitingGet.issueTime = (loaded behind).now) ∧
    waitingGet.state = .waiting ∧ waitingGet.retryCount = 0 ∧ Config.spec.timeoutTicks < 2 ^ Config.spec.wTime ∧
    (List.replicate 3 (List.replicate 499 Instr.tick ++ List.replicate 13 .txByte ++ [.tick])).length =
      Config.spec.maxAttempts ∧
    ∀ a ∈ List.replicate 3 (List.replicate 499 Instr.tick ++ List.replicate 13 .txByte ++ [.tick]),
      SilentAttempt Config.spec 13 a := by
  refine ⟨?_, by decide, by decide, by decide, List.length_replicate .., silent_loaded⟩
  rintro behind (rfl | rfl)
  · exact ⟨inv_loaded.1, by decide⟩
  · exact ⟨inv_loaded.2, by decide⟩

theorem witness_StepKeepsTheInvariant : waiting.Inv ∧ (stepped waiting).isSome = true := ⟨inv_waiting, by decide⟩

theorem witness_ResetEstablishesTheInvariant : waiting.config.Valid ∧ (after .reset waiting).isSome = true := by decide

theorem witness_OnlyTheHeadIsEverOutstanding : TailQueued full.queue ∧ (after .tick full).isSome = true :=
  ⟨by simp [TailQueued, full, queuedGet], by decide⟩

theorem witness_TransactionsMoveOnlyAsTheTableSays : (after (.reqGet 0x2015 1) State.reset).isSome = true := by decide

theorem witness_RequestsKeepTheirOrderAndContents : (after (.cancel 1) full).isSome = true := by decide

theorem witness_CompletionsComeInAcceptanceOrder :
    ∀ i ∈ [Instr.reqGet 0x2016 2, .ack 0x2015 0 []], i ≠ .reset ∧ ∀ tag, i ≠ .cancel tag := by simp

theorem witness_NothingHalts :
    waiting.config.Valid ∧ ∀ bs rest, waiting.inputs ≠ .sent bs :: rest ∧ waiting.inputs ≠ .received bs :: rest :=
  ⟨by decide, by simp [waiting, State.reset]⟩

theorem witness_ParametersNeverChange : (after .reset full).isSome = true := by decide

/-- Each of the five errors in an event that raises it, SetRejected by a matching NAK and by a matching ERR. -/
theorem witness_OneEventRaisesAtMostOneError :
    (after .feedCr (collecting [])).map (·.out.errors) = some [.malformedFrame] ∧
      (after .feedCr (collecting (1 :: List.replicate 9 0))).map (·.out.errors) = some [.checksum] ∧
      (after .tick { waiting with now := 499, queue := [{ waitingGet with retryCount := 2 }] }).map (·.out.errors) =
        some [.deviceTimeout] ∧
      (after (.nak 0x2015 0 []) waiting).map (·.out.errors) = some [.setRejected] ∧
      (after (.err 0x2015 0 []) waiting).map (·.out.errors) = some [.setRejected] ∧
      (after (.reqSet 0 33 [] 0) waiting).map (·.out.errors) = some [.encodeError] := by decide

theorem witness_CycleAppliesItsEventsInOrder : quietPins.rst = false := by decide

theorem witness_OneCompletionPerCycle : waiting.Inv := inv_waiting

theorem witness_ResponseBeatsTimeoutInOneCycle :
    ({ collecting ackDigits with queue := [waitingGet] } : State).Inv ∧
      validate ackDigits false = .frame ⟨0x01, 0x2015, 0, [0xFA, 0x00]⟩ ∧ waitingGet.state = .waiting ∧
      (0x2015 : Addr) = waitingGet.address ∧ (0x01 : Byte) = Config.spec.cmdAck ∧ quietPins.rst = false ∧
      ({ quietPins with rxValid := true, rxData := 0x0A, tick := true } : Pins).rxData = 0x0A :=
  ⟨inv_answering, by decide⟩

theorem witness_PortLinesShowTheRecords :
    (after (.ack 0x2015 0 [0xFA]) waiting).map (·.out.cpl) = some (some ⟨1, .ok, 1, 0, 1, [0xFA]⟩) ∧
      (after .feedCr (collecting ackDigits)).map (·.out.rx) = some (some (.frame ⟨0x01, 0x2015, 0, [0xFA, 0x00]⟩)) ∧
      (after .reqNone waiting).map (·.out.reqStatus) = some (some .accepted) ∧
      (after (.reqSet 0 33 [] 0) waiting).map (·.out.reqStatus) = some (some .encodeError) := by decide

theorem witness_StepRunsTheDecodedOperation :
    State.reset.config.Valid ∧ ({ State.reset with inputs := [.tick] } : State).inputs = .tick :: [] ∧
      read .tick = some .tick ∧ State.reset.queue.length < State.reset.config.qDepth ∧
      read (.received []) = none ∧ ¬ ({ Config.spec with qDepth := 0 } : Config).Valid := by decide

theorem witness_DecodeOfEncodedOperation :
    Config.spec.Valid ∧ (Instr.reqSet 0xFFFF 63 (List.replicate 32 0xFF) 255).wf Config.spec = true ∧
      (Instr.other 0x07 0 0xFF (List.replicate 32 1)).wf Config.spec = true := by decide

theorem witness_DecodingIsTotalAndWellFormed :
    (∀ bs, PortWord.tick ≠ .sent bs ∧ PortWord.tick ≠ .received bs) ∧
      (List.replicate 32 (0 : Byte)).length ≤ Config.spec.maxPayload ∧ read (.rx 0x61) = some (.feedOther 0x61) :=
  ⟨by simp, by decide⟩

end Sys2Proof.Tests
end

/-! ## The step, by what stands at the front of the schedule -/

namespace Sys2Proof.Machine

theorem reqReady_iff (s : State) (op : BitVec 2) : reqReady s op = true ↔ s.queue.length < s.config.qDepth ∨ op = 3 := by
  simp [reqReady]

/-- R142: only a request that finds no room (R35) is left at its port. -/
theorem notTaken_eq_false_iff (s : State) (w : PortWord) :
    notTaken s w = false ↔
      ∀ op addr len data tag, w = .req op addr len data tag → s.queue.length < s.config.qDepth ∨ op = 3 := by
  cases w with
  | req op addr len data tag =>
    have ready : notTaken s (.req op addr len data tag) = false ↔ reqReady s op = true := by simp [notTaken]
    rw [ready, reqReady_iff]
    exact ⟨fun h _ _ _ _ _ e => by cases e; exact h, fun h => h _ _ _ _ _ rfl⟩
  | _ => simp [notTaken]

/-- Every request record is an operation (R86), so what does not decode is a link word, and nothing holds that back. -/
theorem notTaken_of_decode_error {s : State} {c : Config} {w : PortWord} {e : DecodeError} (h : decode c w = .error e) :
    notTaken s w = false := by
  cases w with
  | req => cases h
  | _ => rfl

/-- U15: parameters outside R232 are refused whatever is scheduled. -/
theorem step_of_not_valid {s : State} (hc : ¬ s.config.Valid) : step s = .refused .invalidConfig :=
  if_neg hc

theorem step_of_inputs_nil {s : State} (hc : s.config.Valid) (hw : s.inputs = []) : step s = .next s.startEvent := by
  simp [step, fetch, hc, hw]

/-- R142: the step at which the request at the front finds no room. -/
theorem step_of_notTaken {s : State} {w : PortWord} {rest : List PortWord} (hc : s.config.Valid)
    (hw : s.inputs = w :: rest) (held : notTaken s w = true) :
    step s = .next (s.startEvent.withInputs (holdRequest [w] rest)) := by
  simp [step, fetch, hc, hw, held]

theorem step_of_decode_ok {s : State} {w : PortWord} {rest : List PortWord} {i : Instr} (hc : s.config.Valid)
    (hw : s.inputs = w :: rest) (taken : notTaken s w = false) (hi : decode s.config w = .ok i) :
    step s = exec i (s.withInputs rest) := by
  simp [step, fetch, hc, hw, taken, hi]

theorem step_of_decode_error {s : State} {w : PortWord} {rest : List PortWord} {e : DecodeError} (hc : s.config.Valid)
    (hw : s.inputs = w :: rest) (he : decode s.config w = .error e) : step s = .refused (.undecodable e) := by
  simp [step, fetch, hc, hw, notTaken_of_decode_error he, he]

/-- Settles O53: each clause is one case of the front of the schedule, or the refusal that comes before it. -/
theorem stepRunsTheDecodedOperation : Obligations.StepRunsTheDecodedOperation := by
  intro s
  refine ⟨fun w rest i hc hw hi hroom => ?_, step_of_inputs_nil, fun _ _ _ => step_of_decode_error, step_of_not_valid⟩
  have taken : notTaken s w = false := (notTaken_eq_false_iff s w).2 hroom
  exact step_of_decode_ok hc hw taken hi

end Sys2Proof.Machine

/-! ## What an operation leaves unchanged -/

namespace Sys2Proof.Machine

/-- A field that `tryIssue` keeps is kept by `sendFrame`. -/
theorem sendFrame_keeps {α : Type} (field : State → α) (keeps : ∀ u, field (tryIssue u) = field u) (f : Frame)
    (s : State) : field (sendFrame f s) = field s := by
  rcases sendFrame_cases f s with e | ⟨-, e⟩
  · rw [e]
  · rw [e, keeps]

@[simp] theorem sendFrame_config (f : Frame) (s : State) : (sendFrame f s).config = s.config :=
  sendFrame_keeps State.config tryIssue_config f s
@[simp] theorem sendFrame_rx (f : Frame) (s : State) : (sendFrame f s).rx = s.rx :=
  sendFrame_keeps State.rx tryIssue_rx f s
@[simp] theorem sendFrame_now (f : Frame) (s : State) : (sendFrame f s).now = s.now :=
  sendFrame_keeps State.now tryIssue_now f s
@[simp] theorem sendFrame_inputs (f : Frame) (s : State) : (sendFrame f s).inputs = s.inputs :=
  sendFrame_keeps State.inputs tryIssue_inputs f s

@[simp] theorem enqueue_config (x : Transaction) (s : State) : (enqueue x s).config = s.config := by simp [enqueue]
@[simp] theorem enqueue_rx (x : Transaction) (s : State) : (enqueue x s).rx = s.rx := by simp [enqueue]
@[simp] theorem enqueue_now (x : Transaction) (s : State) : (enqueue x s).now = s.now := by simp [enqueue]
@[simp] theorem enqueue_inputs (x : Transaction) (s : State) : (enqueue x s).inputs = s.inputs := by simp [enqueue]

/-- `S.now` after an operation: TICK counts it (R30, R166), RESET clears it (R40). -/
def nowAfter (i : Instr) (s : State) : Time :=
  match i with
  | .tick => nextTime s
  | .reset => 0
  | _ => s.now

/-- The fields an operation sets the same way whatever the engine does: no parameter (R31) and no schedule changes, time
is TICK's and RESET's, the decoder is RX_BYTE's and RESET's. -/
theorem exec_frame {i : Instr} {s t : State} (h : exec i s = .next t) :
    t.config = s.config ∧ t.inputs = s.inputs ∧ t.now = nowAfter i s ∧
      (isFeed i = false → i ≠ .reset → t.rx = s.rx) := by
  cases i with
  | get | set | ack | nak | err | other | cancel | tick | reset | encode => cases h; simp [nowAfter]
  | feedColon | feedCr | feedLf | feedHex07 | feedHex89 | feedHexA | feedHexBC | feedHexDE | feedHexF | feedOther =>
    cases h; simp [nowAfter, isFeed]
  | reqNone | reqGet | txByte => cases h; split <;> simp [nowAfter]
  | reqSet =>
    cases h
    split
    · split <;> simp [nowAfter]
    · simp [nowAfter]

theorem exec_config {i : Instr} {s t : State} (h : exec i s = .next t) : t.config = s.config := (exec_frame h).1

/-- Settles O47: two fields of the frame that every operation has. -/
theorem parametersNeverChange : Obligations.ParametersNeverChange := by
  intro i s t h
  obtain ⟨config, inputs, -⟩ := exec_frame h
  exact ⟨config, inputs⟩

end Sys2Proof.Machine

/-! ## What an operation does to the engine -/

namespace Sys2Proof.Machine

/-- What an operation can do to the engine: leave it alone and complete nothing, or change the queue as the table of R170
says and then run the issue procedure (R144). -/
def EngineMoves (i : Instr) (s t : State) : Prop :=
  (SameEngine s t ∧ wireLeft i s = s.txBuf ∧ t.out.cpl = none) ∨
    ∃ u, t = tryIssue u ∧ QueueChange i s u.queue t.out.cpl ∧ u.txBuf = wireLeft i s

theorem EngineMoves.of_same {i : Instr} {s t : State} (same : SameEngine s t) (wire : wireLeft i s = s.txBuf)
    (quiet : t.out.cpl = none) : EngineMoves i s t :=
  .inl ⟨same, wire, quiet⟩

theorem EngineMoves.of_tryIssue {i : Instr} {s u : State} (change : QueueChange i s u.queue u.out.cpl)
    (wire : u.txBuf = wireLeft i s) : EngineMoves i s (tryIssue u) :=
  .inr ⟨u, rfl, by rwa [tryIssue_out], wire⟩

/-- R144: a head that has just been issued is not issued again. -/
theorem tryIssue_idem (s : State) : tryIssue (tryIssue s) = tryIssue s := by
  rcases tryIssue_cases s with e | ⟨h, rest, -, -, -, -, e⟩ <;> rw [e]
  · exact e
  · exact tryIssue_busy ((wireBusy_iff _).2 (wireForm_ne_nil _))

/-- OnFrame (R160), run from a state that shares the engine of `s`, on a frame that the operation delivers. -/
theorem onFrame_engineMoves {i : Instr} {s u : State} {f : Frame} (same : SameEngine s u) (config : u.config = s.config)
    (quiet : u.out.cpl = none) (wire : wireLeft i s = s.txBuf) (hf : Delivers i s f) :
    EngineMoves i s (onFrame f u) := by
  have ⟨tx, queue, _⟩ := same
  rcases onFrame_cases f u with e | ⟨h, rest, hq, sent, ha, answer⟩
  · rw [e]
    exact .of_same same wire quiet
  have out : h.outstanding = true := (outstanding_iff h).2 sent
  rw [config] at answer
  rcases answer with ⟨kind, e⟩ | ⟨kind, e⟩ <;> rw [e, complete_eq] <;>
    refine .of_tryIssue ?_ (tx.trans wire.symm) <;>
    simp only [State.withQueue_queue, State.withQueue_out, State.emitCpl_out, hq, List.tail_cons]
  · exact .acked h rest f (queue ▸ hq) out hf ha kind
  · exact .rejected h rest f (queue ▸ hq) out hf ha kind

/-- A request frame sent by the block (R105) is an issue or nothing. -/
theorem sendFrame_engineMoves {i : Instr} (s : State) (f : Frame) (wire : wireLeft i s = s.txBuf) :
    EngineMoves i s (sendFrame f s.startEvent) := by
  rcases sendFrame_cases f s.startEvent with e | ⟨-, e⟩ <;> rw [e]
  · exact .of_same ⟨rfl, rfl, rfl⟩ wire rfl
  · exact .of_tryIssue .keep wire.symm

theorem wireLeft_of_isFeed {i : Instr} (hi : isFeed i = true) (s : State) : wireLeft i s = s.txBuf := by
  cases i with
  | txByte | reset => cases hi
  | _ => rfl

/-- RX_BYTE reaches the engine only with the frame that a terminator completes (R120, R125). -/
theorem exec_feed_engineMoves {i : Instr} {s t : State} (hi : isFeed i = true) (h : exec i s = .next t) :
    EngineMoves i s t := by
  have wire := wireLeft_of_isFeed hi s
  rcases rxEvent_frame_source i s t hi h with ⟨term, collecting, rfl⟩ | ⟨r, rfl⟩
  · rcases rxEvent_cases (fun _ => (Deframer.idle, validate s.rx.nib s.rx.bad)) s with ⟨f, valid, e⟩ | ⟨-, e⟩ <;> rw [e]
    · exact onFrame_engineMoves ⟨rfl, rfl, rfl⟩ rfl rfl wire (.inr ⟨term, collecting, valid⟩)
    · exact .of_same ⟨rfl, rfl, rfl⟩ wire rfl
  · exact .of_same ⟨rfl, rfl, rfl⟩ wire rfl

/-- TICK: the timer test gives the rows of R167 and R168, or nothing but the issue. -/
theorem exec_tick_engineMoves (s : State) :
    EngineMoves .tick s (tryIssue (checkTimer (s.startEvent.withNow (nextTime s)))) := by
  rcases checkTimer_cases (s.startEvent.withNow (nextTime s)) with e | ⟨h, rest, hq, late, timeout⟩
  · rw [e]
    exact .of_tryIssue .keep rfl
  obtain ⟨waiting, late⟩ := (timedOut_iff ..).1 late
  rcases timeout with ⟨left, e⟩ | ⟨spent, e⟩ <;> rw [e]
  · exact .of_tryIssue (.retried h rest rfl hq waiting late (of_decide_eq_true left)) rfl
  · rw [complete_eq, tryIssue_idem]
    refine .of_tryIssue ?_ rfl
    simp only [State.withQueue_queue, State.withQueue_out, State.emitCpl_out, hq, List.tail_cons]
    exact .expired h rest rfl hq waiting late (Nat.not_lt.1 (of_decide_eq_false spent))

/-- An accepted request is appended and the issue procedure runs (R140, R141). -/
theorem enqueue_engineMoves {i : Instr} {s : State} {x : Transaction} (change : QueueChange i s (s.queue ++ [x]) none)
    (wire : wireLeft i s = s.txBuf) : EngineMoves i s (enqueue x s.startEvent) :=
  .of_tryIssue change wire.symm

/-- The inversion lemma of the engine: R170 and R144 for every operation. -/
theorem exec_engineMoves {i : Instr} {s t : State} (h : exec i s = .next t) : EngineMoves i s t := by
  cases i with
  | get | set => cases h; exact sendFrame_engineMoves s _ rfl
  | ack | nak | err | other => cases h; exact onFrame_engineMoves ⟨rfl, rfl, rfl⟩ rfl rfl rfl (.inl rfl)
  | reqNone =>
    cases h
    split <;> exact .of_same ⟨rfl, rfl, rfl⟩ rfl rfl
  | reqGet address tag =>
    cases h
    split
    · exact enqueue_engineMoves (.acceptGet address tag rfl ‹_›) rfl
    · exact .of_same ⟨rfl, rfl, rfl⟩ rfl rfl
  | reqSet address len data tag =>
    cases h
    split
    · split
      · exact .of_same ⟨rfl, rfl, rfl⟩ rfl rfl
      · exact enqueue_engineMoves (.acceptSet address len data tag rfl ‹_› (Nat.not_lt.1 ‹_›)) rfl
    · exact .of_same ⟨rfl, rfl, rfl⟩ rfl rfl
  | cancel tag => cases h; exact .of_tryIssue (.cancelled tag rfl) rfl
  | feedColon | feedCr | feedLf | feedHex07 | feedHex89 | feedHexA | feedHexBC | feedHexDE | feedHexF | feedOther =>
    exact exec_feed_engineMoves rfl h
  | txByte =>
    cases h
    split
    · next empty => exact .of_same ⟨rfl, rfl, rfl⟩ (by simp [wireLeft, empty]) rfl
    · next b rest loaded => exact .of_tryIssue .keep (by simp [wireLeft, loaded])
  | tick => cases h; exact exec_tick_engineMoves s
  | reset =>
    cases h
    refine .inr ⟨_, (tryIssue_nil ?_).symm, .cleared rfl, ?_⟩ <;> rfl
  | encode => cases h; exact .of_same ⟨rfl, rfl, rfl⟩ rfl rfl

end Sys2Proof.Machine

/-! ## Only the head is ever transmitted (R29) -/

namespace Sys2Proof.Machine

theorem TailQueued.sublist {q q' : List Transaction} (hq : TailQueued q) (sub : q'.Sublist q) : TailQueued q' :=
  fun x hx => hq x (sub.tail.mem hx)

/-- R29 says nothing of the head, so another head changes nothing. -/
theorem TailQueued.head {h h' : Transaction} {rest : List Transaction} (hq : TailQueued (h :: rest)) :
    TailQueued (h' :: rest) := hq

theorem TailQueued.append {q : List Transaction} {x : Transaction} (hq : TailQueued q) (queued : x.state = .queued)
    (fresh : x.retryCount = 0) : TailQueued (q ++ [x]) := by
  cases q with
  | nil => simp [TailQueued]
  | cons h rest =>
    intro y hy
    rcases List.mem_append.1 hy with hy | hy
    · exact hq y hy
    · rw [List.mem_singleton.1 hy]
      exact ⟨queued, fresh⟩

/-- R140: the record of an accepted REQ_GET. -/
theorem getTransaction_ok {c : Config} {address : Addr} {tag : Tag} (hc : c.Valid)
    (hi : (Instr.reqGet address tag).wf c = true) : (getTransaction address tag).Ok c := by
  obtain ⟨-, -, attempts, -⟩ := hc
  have fits : tag < 2 ^ c.wTag := of_decide_eq_true hi
  exact ⟨rfl, Nat.zero_le _, fun _ => rfl, fits, Nat.two_pow_pos _, attempts, fun _ => rfl, nofun⟩

/-- R141: the record of an accepted REQ_SET; the lanes of the port hold all the bytes it uses. -/
theorem setTransaction_ok {c : Config} {address : Addr} {len : BitVec 6} {data : List Byte} {tag : Tag} (hc : c.Valid)
    (hi : (Instr.reqSet address len data tag).wf c = true) (fits : len.toNat ≤ c.maxPayload) :
    (setTransaction address len data tag).Ok c := by
  obtain ⟨-, -, attempts, -, -, lanes⟩ := hc
  simp only [Instr.wf, Bool.and_eq_true, beq_iff_eq] at hi
  obtain ⟨allLanes, htag⟩ := hi
  have used : (usedData len data).length = len.toNat :=
    List.length_take_of_le (allLanes ▸ fits.trans lanes)
  exact ⟨used, fits, nofun, of_decide_eq_true htag, Nat.two_pow_pos _, attempts, fun _ => rfl, nofun⟩

/-- The three shapes of the rows of R170: transactions leave, one new one joins at the tail, or the head awaits a retry. -/
theorem QueueChange.shape {i : Instr} {s : State} {q : List Transaction} {c : Option Completion}
    (change : QueueChange i s q c) :
    q.Sublist s.queue ∨
      (∃ x, q = s.queue ++ [x] ∧ s.queue.length < s.config.qDepth ∧ x.state = .queued ∧ x.retryCount = 0 ∧
        (s.config.Valid → i.wf s.config = true → x.Ok s.config)) ∨
      ∃ h rest, s.queue = h :: rest ∧ h.retryCount + 1 < s.config.maxAttempts ∧
        q = { h with state := .retryPending, retryCount := h.retryCount + 1 } :: rest := by
  cases change with
  | keep => exact .inl (List.Sublist.refl _)
  | acceptGet address tag hi room =>
    refine .inr (.inl ⟨_, rfl, ?_, rfl, rfl, fun hc hw => getTransaction_ok hc (hi ▸ hw)⟩)
    simpa using (reqReady_iff s 1).1 room
  | acceptSet address len data tag hi room fits =>
    refine .inr (.inl ⟨_, rfl, ?_, rfl, rfl, fun hc hw => setTransaction_ok hc (hi ▸ hw) fits⟩)
    simpa using (reqReady_iff s 2).1 room
  | cancelled => exact .inl List.filter_sublist
  | cleared => exact .inl (List.nil_sublist _)
  | acked _ _ _ hq | rejected _ _ _ hq | expired _ _ _ hq => exact .inl (hq ▸ List.sublist_cons_self ..)
  | retried h rest _ hq _ _ left => exact .inr (.inr ⟨h, rest, hq, left, rfl⟩)

theorem QueueChange.tailQueued {i : Instr} {s : State} {q : List Transaction} {c : Option Completion}
    (change : QueueChange i s q c) (hs : TailQueued s.queue) : TailQueued q := by
  rcases change.shape with sub | ⟨x, rfl, -, queued, fresh, -⟩ | ⟨h, rest, hq, -, rfl⟩
  · exact hs.sublist sub
  · exact hs.append queued fresh
  · exact (hq ▸ hs).head

theorem tryIssue_tailQueued {s : State} (hs : TailQueued s.queue) : TailQueued (tryIssue s).queue := by
  rcases tryIssue_cases s with e | ⟨h, rest, hq, -, -, -, e⟩ <;> rw [e]
  · exact hs
  · exact (hq ▸ hs).head

theorem exec_tailQueued {i : Instr} {s t : State} (hs : TailQueued s.queue) (h : exec i s = .next t) :
    TailQueued t.queue := by
  rcases exec_engineMoves h with ⟨⟨-, queue, -⟩, -, -⟩ | ⟨u, rfl, change, -⟩
  · rwa [queue]
  · exact tryIssue_tailQueued (change.tailQueued hs)

/-- What R29 is for: no element behind the head is outstanding. -/
theorem TailQueued.outstanding_le_one {q : List Transaction} (hq : TailQueued q) :
    (q.filter (fun t => t.outstanding)).length ≤ 1 := by
  cases q with
  | nil => simp
  | cons h rest =>
    have behind : rest.filter (fun t => t.outstanding) = [] :=
      List.filter_eq_nil_iff.2 fun t ht out => (outstanding_iff t).1 out (hq t ht).1
    rw [List.filter_cons]
    split <;> simp [behind]

/-- Settles O42: R29 is kept by the rows of R170 and by the issue procedure. -/
theorem onlyTheHeadIsEverOutstanding : Obligations.OnlyTheHeadIsEverOutstanding :=
  ⟨by simp [TailQueued, State.reset], fun _ _ _ => exec_tailQueued, fun _ => TailQueued.outstanding_le_one⟩

end Sys2Proof.Machine

/-! ## What is decoded is well formed (R81, R84, R86) -/

namespace Sys2Proof

/-- R81: a frame that parses has a payload that fits. -/
theorem payloadFits_of_parseFrame {c : Config} {bs : List Byte} {f : Frame} (h : parseFrame c bs = .ok f) :
    c.payloadFits f.payload = true := by
  unfold parseFrame at h
  split at h
  · cases h
  split at h
  · cases h
  split at h
  · cases h
  cases h
  have long : ¬ c.maxFrameBytes < bs.length := ‹_›
  simp only [Config.maxFrameBytes, Config.hdrBytes] at long
  simp only [Config.payloadFits, frameFields, List.length_dropLast, List.length_drop, decide_eq_true_eq]
  omega

theorem wf_of_decodeSent {c : Config} {f : Frame} {i : Instr} (hf : c.payloadFits f.payload = true)
    (h : decodeSent c f = .ok i) : i.wf c = true := by
  unfold decodeSent at h
  repeat' split at h
  all_goals cases h
  · rfl
  · exact hf

theorem wf_decodeReceived {c : Config} {f : Frame} (hf : c.payloadFits f.payload = true) :
    (decodeReceived c f).wf c = true := by
  unfold decodeReceived
  repeat' split
  · exact hf
  · exact hf
  · exact hf
  · simp [Instr.wf, Config.notResponse, *]

/-- R82: the row FEED.OTHER is selected by no byte but those of class OTHER. -/
theorem wf_decodeByte (c : Config) (b : Byte) : (decodeByte b).wf c = true := by
  have isOther : ∀ b, byteClass b = .other → Byte.isOther b = true := by decide
  rcases Machine.decodeByte_cases b with
    ⟨e, -⟩ | ⟨e | e, -⟩ | ⟨-, ⟨d, e, -⟩ | ⟨d, e, -⟩ | ⟨e, -⟩ | ⟨d, e, -⟩ | ⟨d, e, -⟩ | ⟨e, -⟩⟩ | ⟨e, other⟩ <;> rw [e]
  any_goals rfl
  exact isOther b other

theorem wf_decodeReq (c : Config) (op : BitVec 2) (addr : Addr) (len : BitVec 6) (data : BitVec 256) (tag : Nat) :
    (decodeReq c op addr len data tag).wf c = true := by
  have fits : c.tagFits (tag % 2 ^ c.wTag) = true := by
    simpa [Config.tagFits] using Nat.mod_lt tag (Nat.two_pow_pos c.wTag)
  unfold decodeReq
  repeat' split
  all_goals simp [Instr.wf, fits, unpackData]

theorem wf_of_decode {c : Config} {w : PortWord} {i : Instr} (h : decode c w = .ok i) : i.wf c = true := by
  cases w with
  | rst | tick | txReady | encode => cases h; rfl
  | rx b => cases h; exact wf_decodeByte c b
  | req => cases h; exact wf_decodeReq ..
  | sent bs =>
    cases hp : parseFrame c bs with
    | error e => simp [decode, hp, Except.bind] at h
    | ok f =>
      simp only [decode, hp, Except.bind] at h
      exact wf_of_decodeSent (payloadFits_of_parseFrame hp) h
  | received bs =>
    cases hp : parseFrame c bs with
    | error e => simp [decode, hp, Except.map] at h
    | ok f =>
      simp only [decode, hp, Except.map] at h
      cases h
      exact wf_decodeReceived (payloadFits_of_parseFrame hp)

end Sys2Proof

/-! ## The invariant of the machine -/

namespace Sys2Proof.Machine

/-- The invariant as it stands before the issue procedure: all of it but R144's "nothing has been loaded". -/
structure State.BeforeIssue (s : State) : Prop where
  config   : s.config.Valid
  deframer : s.rx.Ok s.config
  txBuf    : TxBufOk s.config s.txBuf
  room     : s.queue.length ≤ s.config.qDepth
  records  : ∀ t ∈ s.queue, t.Ok s.config
  tail     : TailQueued s.queue
  time     : s.now < 2 ^ s.config.wTime

/-- The invariant speaks of the parameters, the decoder and the engine only. -/
theorem State.Inv.of_same {s t : State} (hs : s.Inv) (config : t.config = s.config) (rx : t.rx.Ok s.config)
    (same : SameEngine s t) : t.Inv := by
  obtain ⟨tx, queue, now⟩ := same
  obtain ⟨hc, -, htx, room, records, tail, time, issued⟩ := hs
  rw [← config] at hc rx htx room records time
  rw [← queue] at room records tail
  refine ⟨hc, rx, tx ▸ htx, room, records, tail, now ▸ time, fun h rest hq hw => ?_⟩
  rw [wireBusy, tx]
  exact issued h rest (queue ▸ hq) hw

/-! ### The transmit buffer -/

theorem txBufOk_nil (c : Config) : TxBufOk c [] := ⟨⟨0, 0, 0, []⟩, Nat.zero_le _, List.nil_suffix⟩

theorem txBufOk_wireForm {c : Config} {f : Frame} (fits : f.payload.length ≤ c.maxPayload) : TxBufOk c (wireForm f) :=
  ⟨f, fits, List.suffix_refl _⟩

theorem wireLeft_suffix (i : Instr) (s : State) : wireLeft i s <:+ s.txBuf := by
  cases i with
  | txByte => exact List.tail_suffix _
  | reset => exact List.nil_suffix
  | _ => exact List.suffix_refl _

theorem TxBufOk.suffix {c : Config} {w w' : List Byte} (hw : TxBufOk c w) (suffix : w' <:+ w) : TxBufOk c w' := by
  obtain ⟨f, fits, hf⟩ := hw
  exact ⟨f, fits, suffix.trans hf⟩

/-! ### The decoder -/

theorem Deframer.idle_ok (c : Config) : Deframer.idle.Ok c := ⟨Nat.zero_le _, fun _ => ⟨rfl, rfl⟩⟩

theorem onColon_ok (c : Config) (r : Deframer) : r.onColon.1.Ok c := ⟨Nat.zero_le _, nofun⟩

theorem onTerm_ok {c : Config} {r : Deframer} (hr : r.Ok c) : r.onTerm.1.Ok c := by
  unfold Deframer.onTerm
  split
  · exact hr
  · exact Deframer.idle_ok c

theorem onOther_ok {c : Config} {r : Deframer} (hr : r.Ok c) : r.onOther.1.Ok c := by
  unfold Deframer.onOther
  split
  · exact hr
  · next collecting => exact ⟨hr.1, fun idle => by simp [collecting] at idle⟩

/-- R22: a digit is stored only while the collector has room. -/
theorem onHexDigit_ok {c : Config} {d : Nibble} {r : Deframer} (hr : r.Ok c) : (r.onHexDigit c d).1.Ok c := by
  unfold Deframer.onHexDigit
  split
  · exact hr
  · next collecting =>
    refine ⟨?_, fun idle => by simp [collecting] at idle⟩
    dsimp only
    split
    · exact hr.1
    · next room => simpa [collectorFull] using room

theorem exec_deframer_ok {i : Instr} {s t : State} (hs : s.rx.Ok s.config) (h : exec i s = .next t) :
    t.rx.Ok s.config := by
  obtain ⟨-, -, -, unfed⟩ := exec_frame h
  by_cases fed : isFeed i = true
  · rcases exec_feed_cases i s fed with ⟨-, e⟩ | ⟨-, e⟩ | ⟨d, -, e⟩ | ⟨-, -, e⟩ <;> cases e.symm.trans h <;>
      rw [rxEvent_rx]
    · exact onColon_ok ..
    · exact onTerm_ok hs
    · exact onHexDigit_ok hs
    · exact onOther_ok hs
  by_cases hi : i = .reset
  · subst hi
    cases h
    exact Deframer.idle_ok _
  · rw [unfed (by simpa using fed) hi]
    exact hs

/-! ### Time -/

theorem nowAfter_lt {s : State} (hs : s.now < 2 ^ s.config.wTime) (i : Instr) : nowAfter i s < 2 ^ s.config.wTime := by
  cases i with
  | tick => exact Nat.mod_lt _ (Nat.two_pow_pos _)
  | reset => exact Nat.two_pow_pos _
  | _ => exact hs

/-! ### The queue -/

/-- R144: an issued attempt keeps what R27 and R28 say. -/
theorem Transaction.Ok.issue {c : Config} {x : Transaction} {now : Time} (hx : x.Ok c) (hnow : now < 2 ^ c.wTime) :
    ({ x with state := .waiting, issueTime := now } : Transaction).Ok c := by
  obtain ⟨data, len, get, tag, -, attempts, -⟩ := hx
  exact ⟨data, len, get, tag, hnow, attempts, nofun, nofun⟩

/-- R167: so does a timeout with attempts left. -/
theorem Transaction.Ok.retry {c : Config} {x : Transaction} (hx : x.Ok c) (left : x.retryCount + 1 < c.maxAttempts) :
    ({ x with state := .retryPending, retryCount := x.retryCount + 1 } : Transaction).Ok c := by
  obtain ⟨data, len, get, tag, time, -⟩ := hx
  exact ⟨data, len, get, tag, time, left, nofun, fun _ => Nat.le_add_left ..⟩

theorem QueueChange.room {i : Instr} {s : State} {q : List Transaction} {c : Option Completion}
    (change : QueueChange i s q c) (hs : s.queue.length ≤ s.config.qDepth) : q.length ≤ s.config.qDepth := by
  rcases change.shape with sub | ⟨x, rfl, room, -⟩ | ⟨h, rest, hq, -, rfl⟩
  · exact sub.length_le.trans hs
  · simpa using room
  · simpa [hq] using hs

theorem QueueChange.records {i : Instr} {s : State} {q : List Transaction} {c : Option Completion}
    (change : QueueChange i s q c) (hc : s.config.Valid) (hi : i.wf s.config = true)
    (hs : ∀ x ∈ s.queue, x.Ok s.config) : ∀ x ∈ q, x.Ok s.config := by
  rcases change.shape with sub | ⟨x, rfl, -, -, -, ok⟩ | ⟨h, rest, hq, left, rfl⟩
  · exact fun x hx => hs x (sub.mem hx)
  · intro y hy
    rcases List.mem_append.1 hy with hy | hy
    · exact hs y hy
    · exact List.mem_singleton.1 hy ▸ ok hc hi
  · rw [hq] at hs
    obtain ⟨hh, hrest⟩ := List.forall_mem_cons.1 hs
    exact List.forall_mem_cons.2 ⟨hh.retry left, hrest⟩

/-! ### The issue procedure -/

/-- R144: after TryIssue nothing is left to issue, when the head's frame can be encoded (R103). -/
theorem tryIssue_nothingToIssue {s : State} (fits : ∀ h rest, s.queue = h :: rest → h.len ≤ s.config.maxPayload) :
    NothingToIssue (tryIssue s) := by
  rcases tryIssue_cases s with e | ⟨h, rest, -, -, -, -, e⟩ <;> rw [e] <;> intro h rest hq hw
  · by_contra free
    have load := tryIssue_load hq hw (by simpa using free) ((frameOf_payload_le _ h).trans (fits h rest hq))
    have loaded : s.txBuf = wireForm (frameOf s.config h) := congrArg State.txBuf (e.symm.trans load)
    exact free ((wireBusy_iff s).2 (loaded ▸ wireForm_ne_nil _))
  · exact (wireBusy_iff _).2 (wireForm_ne_nil _)

/-- The issue procedure completes the invariant. -/
theorem State.BeforeIssue.tryIssue_inv {s : State} (hs : s.BeforeIssue) : (tryIssue s).Inv := by
  obtain ⟨hc, rx, tx, room, records, tail, time⟩ := hs
  have tail' := tryIssue_tailQueued tail
  have issued : NothingToIssue (tryIssue s) :=
    tryIssue_nothingToIssue fun h rest hq => (records h (hq ▸ List.mem_cons_self)).2.1
  rcases tryIssue_cases s with e | ⟨h, rest, hq, -, -, fits, e⟩ <;> rw [e] at tail' issued ⊢
  · exact ⟨hc, rx, tx, room, records, tail', time, issued⟩
  · rw [hq] at room records
    obtain ⟨hh, hrest⟩ := List.forall_mem_cons.1 records
    exact ⟨hc, rx, txBufOk_wireForm fits, room, List.forall_mem_cons.2 ⟨hh.issue time, hrest⟩, tail', time, issued⟩

/-! ### The step -/

/-- Every operation with operands that its encoding admits keeps the invariant. -/
theorem exec_inv {i : Instr} {s t : State} (hs : s.Inv) (hi : i.wf s.config = true) (h : exec i s = .next t) :
    t.Inv := by
  obtain ⟨config, -, now, -⟩ := exec_frame h
  have rx := exec_deframer_ok hs.deframer h
  rcases exec_engineMoves h with ⟨same, -⟩ | ⟨u, rfl, change, wire⟩
  · exact hs.of_same config rx same
  rw [tryIssue_config] at config
  rw [tryIssue_rx, ← config] at rx
  rw [tryIssue_now] at now
  refine State.BeforeIssue.tryIssue_inv ⟨?_, rx, ?_, ?_, ?_, change.tailQueued hs.tail, ?_⟩ <;> rw [config]
  · exact hs.config
  · exact wire ▸ hs.txBuf.suffix (wireLeft_suffix i s)
  · exact change.room hs.room
  · exact change.records hs.config hi hs.records
  · exact now ▸ nowAfter_lt hs.time i

/-- What a step that answers has done: nothing but let time at the ports pass, or the operation it decoded. -/
theorem step_cases {s t : State} (h : step s = .next t) :
    (∃ inputs, t = s.startEvent.withInputs inputs) ∨
      ∃ w rest i, s.inputs = w :: rest ∧ decode s.config w = .ok i ∧ exec i (s.withInputs rest) = .next t := by
  by_cases hc : s.config.Valid
  case neg => cases (step_of_not_valid hc).symm.trans h
  cases hw : s.inputs with
  | nil =>
    cases (step_of_inputs_nil hc hw).symm.trans h
    exact .inl ⟨s.inputs, rfl⟩
  | cons w rest =>
    cases held : notTaken s w with
    | true =>
      cases (step_of_notTaken hc hw held).symm.trans h
      exact .inl ⟨_, rfl⟩
    | false =>
      cases hi : decode s.config w with
      | error e => cases (step_of_decode_error hc hw hi).symm.trans h
      | ok i => exact .inr ⟨w, rest, i, rfl, hi, (step_of_decode_ok hc hw held hi).symm.trans h⟩

/-- Settles O40: what is decoded is well formed, and every well-formed operation keeps the invariant. -/
theorem stepKeepsTheInvariant : Obligations.StepKeepsTheInvariant := by
  intro s t hs h
  rcases step_cases h with ⟨inputs, rfl⟩ | ⟨w, rest, i, -, hi, h⟩
  · exact hs.of_same rfl hs.deframer ⟨rfl, rfl, rfl⟩
  · have hs' : (s.withInputs rest).Inv := hs.of_same rfl hs.deframer ⟨rfl, rfl, rfl⟩
    exact exec_inv hs' (wf_of_decode hi) h

/-! ## Reset (R40) -/

theorem config_spec_valid : Config.spec.Valid := by decide

/-- The emptied block meets the invariant (R29, R40). -/
theorem inv_of_empty {s : State} (hc : s.config.Valid) (rx : s.rx = Deframer.idle) (tx : s.txBuf = [])
    (queue : s.queue = []) (now : s.now = 0) : s.Inv where
  config := hc
  deframer := rx ▸ Deframer.idle_ok _
  txBuf := tx ▸ txBufOk_nil _
  room := by simp [queue]
  records := by simp [queue]
  tail := by simp [TailQueued, queue]
  time := now ▸ Nat.two_pow_pos _
  issued := by simp [NothingToIssue, queue]

/-- Settles O41: both states are empty. -/
theorem resetEstablishesTheInvariant : Obligations.ResetEstablishesTheInvariant := by
  refine ⟨inv_of_empty config_spec_valid rfl rfl rfl rfl, fun s t hc h => ?_⟩
  cases h
  exact inv_of_empty hc rfl rfl rfl rfl

/-- The state a run starts from and the state RESET leaves, field by field (R40). -/
theorem reset_fields {s t : State} (h : s = State.reset ∧ t = s ∨ exec .reset s = .next t) :
    t.rx = Deframer.idle ∧ t.txBuf = [] ∧ t.queue = [] ∧ t.now = 0 ∧ t.out = Outputs.afterReset ∧
      t.config = s.config := by
  rcases h with ⟨rfl, rfl⟩ | h
  · exact ⟨rfl, rfl, rfl, rfl, rfl, rfl⟩
  · cases h
    exact ⟨rfl, rfl, rfl, rfl, rfl, rfl⟩

/-- An address is exactly a number of 16 bits (R5). -/
theorem lt_iff_exists_addr (n : Nat) : n < 2 ^ 16 ↔ ∃ a : Addr, a.toNat = n :=
  ⟨fun h => ⟨BitVec.ofNat 16 n, BitVec.toNat_ofNat .. ▸ Nat.mod_eq_of_lt h⟩, fun ⟨a, ha⟩ => ha ▸ a.isLt⟩

/-- Settles O2: the table of R40 read off the reset state, the values of R5 and R6 off `Config.spec`. -/
theorem resetStateHasTheValuesOfTheResetTable : Obligations.ResetStateHasTheValuesOfTheResetTable := by
  refine ⟨fun s t hc h => ?_, ⟨rfl, rfl, rfl, lt_iff_exists_addr⟩,
    ⟨rfl, rfl, rfl, rfl, rfl, rfl, rfl, rfl, rfl, fun _ hc => hc.1⟩, fun _ _ _ => exec_config⟩
  obtain ⟨rx, tx, queue, now, out, config⟩ := reset_fields h
  obtain ⟨-, depth, -⟩ := hc
  have free : wireBusy t = false := (wireBusy_eq_false t).2 tx
  have ready : ∀ op, reqReady t op = true := fun op =>
    (reqReady_iff t op).2 (.inl (by rw [queue, config]; exact depth))
  rw [rx]
  exact ⟨rfl, rfl, rfl, tx, free, free, queue, ready, now, by simp [cplValid, out, Outputs.afterReset, Outputs.quiet],
    by simp [rxStatusPins, out, Outputs.afterReset, RxResult.code], config⟩

/-! ## Time (R30) -/

/-- R30: subtraction modulo 2^`W_TIME` undoes the wrap. -/
theorem elapsed_wrap (c : Config) {since n : Nat} (hs : since < 2 ^ c.wTime) (hn : n < 2 ^ c.wTime) :
    elapsed c ((since + n) % 2 ^ c.wTime) since = n := by
  have sum : since + n + (2 ^ c.wTime - since) = n + 2 ^ c.wTime := by omega
  rw [elapsed, Nat.mod_eq_of_lt hs, Nat.mod_add_mod, sum, Nat.add_mod_right, Nat.mod_eq_of_lt hn]

/-- Settles O37: TICK counts, and the elapsed time survives the wrap. -/
theorem elapsedTimeIsCorrectAcrossTheWrap : Obligations.ElapsedTimeIsCorrectAcrossTheWrap := by
  refine ⟨fun s => ⟨_, rfl, ?_⟩, fun c since n => elapsed_wrap c⟩
  rw [tryIssue_now, checkTimer_now]
  rfl

end Sys2Proof.Machine

/-! ## The output ports (R34 to R37) -/

namespace Sys2Proof.Machine

/-- A byte that the array holds is the byte its lines show. -/
theorem dataByte_of_getElem? {bytes : List Byte} {k : Nat} {b : Byte} (index line : Nat) (h : bytes[k]? = some b) :
    dataByte bytes index line k = b := by
  simp [dataByte, List.getD_eq_getElem?_getD, h]

theorem toNat_ofNat_six {n : Nat} (h : n < 64) : (BitVec.ofNat 6 n).toNat = n :=
  BitVec.toNat_ofNat .. ▸ Nat.mod_eq_of_lt h

/-- The completion port (R36, R88). -/
theorem cplPins_show {s : State} {c : Completion} (h : s.out.cpl = some c) :
    cplTagPins s = c.tag ∧ cplRspTypePins s = c.rspType ∧ cplFlagsPins s = c.flags ∧ cplResultPins s = c.result.code ∧
      cplLenPins s = BitVec.ofNat 6 c.len ∧ ∀ k b, c.data[k]? = some b → cplDataPins s k = b := by
  refine ⟨?_, ?_, ?_, ?_, ?_, fun k b hb => ?_⟩
  · simp [cplTagPins, h]
  · simp [cplRspTypePins, h]
  · simp [cplFlagsPins, h]
  · simp [cplResultPins, h]
  · simp [cplLenPins, h]
  · simpa [cplDataPins, h] using dataByte_of_getElem? _ _ hb

theorem rxStatusPins_show {s : State} {r : RxResult} (h : s.out.rx = some r) : rxStatusPins s = r.code := by
  simp [rxStatusPins, h]

/-- The frame lines of the decoder's port (R37). -/
theorem rxFramePins_show {s : State} {f : Frame} (h : s.out.rx = some (.frame f)) :
    rxCmdPins s = f.cmd ∧ rxAddrPins s = f.address ∧ rxFlagsPins s = f.flags ∧
      rxLenPins s = BitVec.ofNat 6 f.payload.length ∧ ∀ k b, f.payload[k]? = some b → rxDataPins s k = b := by
  have shown : rxFrameShown s = some f := by simp [rxFrameShown, h, RxResult.frame?]
  refine ⟨?_, ?_, ?_, ?_, fun k b hb => ?_⟩
  · simp [rxCmdPins, shown]
  · simp [rxAddrPins, shown]
  · simp [rxFlagsPins, shown]
  · simp [rxLenPins, shown]
  · simpa [rxDataPins, shown] using dataByte_of_getElem? _ _ hb

theorem reqStatusPins_show {s : State} {st : ReqStatus} (h : s.out.reqStatus = some st) : reqStatusPins s = st.code := by
  simp [reqStatusPins, h]

/-- Settles O52: each port by its record, each code by its table. -/
theorem portLinesShowTheRecords : Obligations.PortLinesShowTheRecords := by
  intro s
  refine ⟨by simp [txValid, wireBusy], fun b rest h => dataByte_of_getElem? _ _ (by simp [h]), Iff.rfl, fun c h => ?_,
    reqStatusPins_show, reqStatusPins_show, rxStatusPins_show, rxStatusPins_show, rxStatusPins_show, fun f h => ?_⟩
  · obtain ⟨tag, rspType, flags, result, len, data⟩ := cplPins_show h
    exact ⟨tag, rspType, flags, fun e => result.trans (congrArg _ e), fun e => result.trans (congrArg _ e),
      fun e => result.trans (congrArg _ e), fun fits => len ▸ toNat_ofNat_six fits, data⟩
  · obtain ⟨cmd, address, flags, len, data⟩ := rxFramePins_show h
    exact ⟨rxStatusPins_show h, cmd, address, flags, fun fits => len ▸ toNat_ofNat_six fits, data⟩

end Sys2Proof.Machine

/-! ## Requests in the queue (R62, R64, R68, R145) -/

namespace Sys2Proof.Machine

/-- What TryIssue writes in a record is its state and its issue time (R144); any view of a record without these two is
kept. -/
theorem tryIssue_queue_map {α : Type} (view : Transaction → α)
    (keeps : ∀ x now, view { x with state := .waiting, issueTime := now } = view x) (s : State) :
    (tryIssue s).queue.map view = s.queue.map view := by
  rcases tryIssue_cases s with e | ⟨h, rest, hq, -, -, -, e⟩ <;> rw [e]
  rw [loadHead_queue, hq, List.map_cons, List.map_cons, keeps]

/-! ### Completions in acceptance order -/

@[simp] theorem tryIssue_tags (s : State) : (tryIssue s).queue.map (·.tag) = s.queue.map (·.tag) :=
  tryIssue_queue_map _ (fun _ _ => rfl) s

/-- R140, R141: the tag joins at the tail. -/
@[simp] theorem enqueue_tags (x : Transaction) (s : State) :
    (enqueue x s).queue.map (·.tag) = s.queue.map (·.tag) ++ [x.tag] := by
  simp [enqueue]

@[simp] theorem enqueue_out (x : Transaction) (s : State) :
    (enqueue x s).out = { s.out with reqStatus := some .accepted } := by
  simp [enqueue]

/-- Everything a REQ_GET or REQ_SET can do: join the queue, or change nothing of the block and not be ACCEPTED (refused
with EncodeError, or not taken). -/
theorem exec_request_cases {i : Instr} {s t : State} {tag : Tag} (hi : requestTag i = some tag)
    (h : exec i s = .next t) :
    (∃ x, x.tag = tag ∧ t = enqueue x s.startEvent) ∨
      (t.queue = s.queue ∧ t.out.cpl = none ∧ t.out.reqStatus ≠ some .accepted) := by
  cases i with
  | reqGet address tag' =>
    cases hi
    cases h
    split
    · exact .inl ⟨_, rfl, rfl⟩
    · exact .inr ⟨rfl, rfl, nofun⟩
  | reqSet address len data tag' =>
    cases hi
    cases h
    split
    · split
      · exact .inr ⟨rfl, rfl, nofun⟩
      · exact .inl ⟨_, rfl, rfl⟩
    · exact .inr ⟨rfl, rfl, nofun⟩
  | _ => cases hi

/-- R170 without the rows of requests, CANCEL and RESET: a transaction leaves the queue from its head, completed. -/
theorem QueueChange.tags {i : Instr} {s : State} {q : List Transaction} {c : Option Completion}
    (change : QueueChange i s q c) (noRequest : requestTag i = none) (noReset : i ≠ .reset)
    (noCancel : ∀ tag, i ≠ .cancel tag) :
    (c.map (·.tag)).toList ++ q.map (·.tag) = s.queue.map (·.tag) := by
  cases change with
  | keep => rfl
  | acceptGet _ _ hi | acceptSet _ _ _ _ hi => subst hi; cases noRequest
  | cancelled tag hi => exact absurd hi (noCancel tag)
  | cleared hi => exact absurd hi noReset
  | acked _ _ _ hq | rejected _ _ _ hq | retried _ _ _ hq | expired _ _ _ hq => rw [hq]; rfl

/-- The tag an operation adds to those accepted: that of a REQ_GET or REQ_SET which shows ACCEPTED. -/
def acceptedTag (i : Instr) (o : Outputs) : Option Tag := if o.reqStatus = some .accepted then requestTag i else none

/-- One operation conserves the tags: completed and still queued are those queued before and the one accepted. -/
theorem exec_tags {i : Instr} {s t : State} (noReset : i ≠ .reset) (noCancel : ∀ tag, i ≠ .cancel tag)
    (h : exec i s = .next t) :
    (t.out.cpl.map (·.tag)).toList ++ t.queue.map (·.tag) = s.queue.map (·.tag) ++ (acceptedTag i t.out).toList := by
  cases hi : requestTag i with
  | none =>
    have notAccepted : acceptedTag i t.out = none := by simp [acceptedTag, hi]
    rw [notAccepted, Option.toList_none, List.append_nil]
    rcases exec_engineMoves h with ⟨⟨-, queue, -⟩, -, quiet⟩ | ⟨u, rfl, change, -⟩
    · rw [queue, quiet]; rfl
    · rw [tryIssue_tags]
      exact change.tags hi noReset noCancel
  | some tag =>
    rcases exec_request_cases hi h with ⟨x, rfl, rfl⟩ | ⟨queue, quiet, refused⟩
    · simp [acceptedTag, hi, Outputs.quiet]
    · simp [acceptedTag, queue, quiet, refused]

/-- R212: every arm of `exec` answers a next state. -/
theorem exec_total (i : Instr) (s : State) : ∃ t, exec i s = .next t := by
  cases i <;> exact ⟨_, rfl⟩

theorem runEvents_cons {i : Instr} {s t : State} (h : exec i s = .next t) (is : List Instr) :
    runEvents (i :: is) s = runEvents is t := by
  simp [runEvents, h]

theorem outputsOf_cons {i : Instr} {s t : State} (h : exec i s = .next t) (is : List Instr) :
    outputsOf (i :: is) s = t.out :: outputsOf is t := by
  simp [outputsOf, h]

theorem acceptedTags_cons (i : Instr) (is : List Instr) (o : Outputs) (os : List Outputs) :
    acceptedTags (i :: is) (o :: os) = (acceptedTag i o).toList ++ acceptedTags is os := by
  simp [acceptedTags, acceptedTag, List.filterMap_eq_flatMap_toList]

/-- The tags of the completions a run showed, in order. -/
def completedTags (outs : List Outputs) : List Tag := outs.filterMap (fun o => o.cpl.map (·.tag))

theorem completedTags_cons (o : Outputs) (os : List Outputs) :
    completedTags (o :: os) = (o.cpl.map (·.tag)).toList ++ completedTags os := by
  simp [completedTags, List.filterMap_eq_flatMap_toList]

/-- A run conserves the tags, in order: each event does, and the queue is what is between accepting and completing. -/
theorem runEvents_tags (events : List Instr) (s : State)
    (plain : ∀ i ∈ events, i ≠ .reset ∧ ∀ tag, i ≠ .cancel tag) :
    ∃ t, runEvents events s = .next t ∧
      completedTags (outputsOf events s) ++ t.queue.map (·.tag) =
        s.queue.map (·.tag) ++ acceptedTags events (outputsOf events s) := by
  induction events generalizing s with
  | nil => exact ⟨s, rfl, (List.append_nil _).symm⟩
  | cons i is ih =>
    obtain ⟨⟨noReset, noCancel⟩, plain⟩ := List.forall_mem_cons.1 plain
    obtain ⟨u, hu⟩ := exec_total i s
    obtain ⟨t, run, later⟩ := ih u plain
    refine ⟨t, (runEvents_cons hu is).trans run, ?_⟩
    rw [outputsOf_cons hu, completedTags_cons, acceptedTags_cons, List.append_assoc, later, ← List.append_assoc,
      exec_tags noReset noCancel hu, List.append_assoc]

/-- Settles O45: the conservation of tags over a run. -/
theorem completionsComeInAcceptanceOrder : Obligations.CompletionsComeInAcceptanceOrder := runEvents_tags

/-! ### Contents and order -/

/-- What the host asked for, which no rule changes after acceptance (R68). -/
def Transaction.content (x : Transaction) : TxnOp × Addr × Nat × List Byte × Tag :=
  (x.op, x.address, x.len, x.data, x.tag)

/-- Operation `i` is a request for the content of `x`. -/
def RequestOf (i : Instr) (x : Transaction) : Prop :=
  (∃ address tag, i = .reqGet address tag ∧ x.content = (.get, address, 0, [], tag)) ∨
    (∃ address len data tag, i = .reqSet address len data tag ∧
      x.content = (.set, address, len.toNat, data.take len.toNat, tag))

/-- The rows of R170: transactions leave the queue, or the one requested joins at its tail; the retry of the head is
neither, and alters no content. -/
theorem QueueChange.contents {i : Instr} {s : State} {q : List Transaction} {c : Option Completion}
    (change : QueueChange i s q c) :
    (q.map Transaction.content).Sublist (s.queue.map Transaction.content) ∨
      ∃ x, q.map Transaction.content = s.queue.map Transaction.content ++ [x.content] ∧ RequestOf i x := by
  cases change with
  | keep => exact .inl (List.Sublist.refl _)
  | acceptGet address tag hi => exact .inr ⟨_, List.map_append, .inl ⟨address, tag, hi, rfl⟩⟩
  | acceptSet address len data tag hi => exact .inr ⟨_, List.map_append, .inr ⟨address, len, data, tag, hi, rfl⟩⟩
  | cancelled => exact .inl (List.filter_sublist.map _)
  | cleared => exact .inl (List.nil_sublist _)
  | acked _ _ _ hq | rejected _ _ _ hq | expired _ _ _ hq => exact .inl (hq ▸ (List.sublist_cons_self ..).map _)
  | retried _ _ _ hq => exact .inl (hq ▸ List.Sublist.refl _)

/-- Settles O44: the rows of R170, and the issue procedure, which alters no content. -/
theorem requestsKeepTheirOrderAndContents : Obligations.RequestsKeepTheirOrderAndContents := by
  intro i s t h
  show (t.queue.map Transaction.content).Sublist (s.queue.map Transaction.content) ∨
    ∃ x, t.queue.map Transaction.content = s.queue.map Transaction.content ++ [x.content] ∧ RequestOf i x
  rcases exec_engineMoves h with ⟨⟨-, queue, -⟩, -, -⟩ | ⟨u, rfl, change, -⟩
  · exact .inl (queue ▸ List.Sublist.refl _)
  · rw [tryIssue_queue_map _ fun _ _ => rfl]
    exact change.contents

end Sys2Proof.Machine

/-! ## The order of bytes and digits on the wire (R53 to R55) -/

namespace Sys2Proof

theorem addrLow_toNat (a : Addr) : (addrLow a).toNat = a.toNat % 256 := by simp [addrLow]

theorem addrHigh_toNat (a : Addr) : (addrHigh a).toNat = a.toNat / 256 := by
  have := a.isLt
  simp [addrHigh, Nat.shiftRight_eq_div_pow]
  omega

/-- R54: the payload stands behind the four bytes of the header, unchanged. -/
theorem frameBytes_payload (f : Frame) {k : Nat} (hk : k < f.payload.length) :
    (frameBytes f)[4 + k]? = f.payload[k]? := by
  have behind : (frameBytes f)[4 + k]? = (f.payload ++ [checksum (frameHead f)])[k]? := by
    rw [Nat.add_comm]; rfl
  rw [behind, List.getElem?_append_left hk]

namespace Machine

theorem highNibble_eq (b : Byte) : b.extractLsb' 4 4 = BitVec.ofNat 4 (b.toNat / 16) := by
  apply BitVec.eq_of_toNat_eq
  simp [Nat.shiftRight_eq_div_pow]

theorem lowNibble_eq (b : Byte) : b.extractLsb' 0 4 = BitVec.ofNat 4 (b.toNat % 16) := by
  apply BitVec.eq_of_toNat_eq
  simp

/-- R78: byte `k` is written as the digits `2k` and `2k + 1`. -/
theorem flatMap_hexPair_getElem? {bs : List Byte} {k : Nat} {b : Byte} (h : bs[k]? = some b) :
    (bs.flatMap hexPair)[2 * k]? = some (hexChar (b.extractLsb' 4 4)) ∧
      (bs.flatMap hexPair)[2 * k + 1]? = some (hexChar (b.extractLsb' 0 4)) := by
  induction bs generalizing k with
  | nil => cases h
  | cons a bs ih =>
    cases k with
    | zero => cases h; exact ⟨rfl, rfl⟩
    | succ k => exact ih h

/-- R77: between the `:` and the terminator stand the digits, those of byte `k` at `2k + 1` and `2k + 2`. -/
theorem wireForm_getElem? {f : Frame} {k : Nat} {b : Byte} (h : (frameBytes f)[k]? = some b) :
    (wireForm f)[2 * k + 1]? = some (hexChar (b.extractLsb' 4 4)) ∧
      (wireForm f)[2 * k + 2]? = some (hexChar (b.extractLsb' 0 4)) := by
  have digit : ∀ {j d}, ((frameBytes f).flatMap hexPair)[j]? = some d → (wireForm f)[j + 1]? = some d := by
    intro j d hd
    rw [wireForm, List.cons_append, List.getElem?_cons_succ,
      List.getElem?_append_left (List.getElem?_eq_some_iff.1 hd).1, hd]
  obtain ⟨high, low⟩ := flatMap_hexPair_getElem? h
  exact ⟨digit high, digit low⟩

/-- Settles O7: the positions of the frame's bytes, and the two digits of each. -/
theorem wireOrderIsLittleEndianHighDigitFirst : Obligations.WireOrderIsLittleEndianHighDigitFirst := by
  refine fun f => ⟨congrArg some (addrLow_toNat f.address), congrArg some (addrHigh_toNat f.address),
    fun _ => frameBytes_payload f, fun k b hb => ?_⟩
  obtain ⟨high, low⟩ := wireForm_getElem? hb
  rw [high, low, Option.map_some, Option.map_some, hexVal_hexChar, hexVal_hexChar, highNibble_eq, lowNibble_eq]
  exact ⟨rfl, rfl⟩

end Machine
end Sys2Proof

/-! ## Words of the encodings: decode of encode, and the operation each word stands for (R71 to R93) -/

namespace Sys2Proof

/-! ### Frames (R71 to R76, R91 to R93) -/

/-- R76: the binary frame passes the checksum test. -/
theorem sumBytes_frameBytes_mod (f : Frame) : sumBytes (frameBytes f) % 256 = 0 := by
  simp only [frameBytes, sumBytes_append, sumBytes_cons, sumBytes_nil, checksum_toNat]
  omega

/-- R81: the binary frame of a Frame that fits is read back as the Frame. -/
theorem parseFrame_frameBytes {c : Config} {f : Frame} (fits : f.payload.length ≤ c.maxPayload) :
    parseFrame c (frameBytes f) = .ok f := by
  have notShort : ¬ (frameBytes f).length < Config.minFrameBytes := by
    simp [frameBytes_length, Config.minFrameBytes, Config.hdrBytes]
  have notLong : ¬ c.maxFrameBytes < (frameBytes f).length := by
    rw [frameBytes_length, Config.maxFrameBytes, Config.hdrBytes]
    omega
  simp [parseFrame, notShort, notLong, sumBytes_frameBytes_mod, frameFields_frameBytes]

theorem decode_sent {c : Config} {f : Frame} (fits : f.payload.length ≤ c.maxPayload) :
    decode c (.sent (frameBytes f)) = decodeSent c f := by
  rw [decode, parseFrame_frameBytes fits]
  rfl

theorem decode_received {c : Config} {f : Frame} (fits : f.payload.length ≤ c.maxPayload) :
    decode c (.received (frameBytes f)) = .ok (decodeReceived c f) := by
  rw [decode, parseFrame_frameBytes fits]
  rfl

theorem decodeSent_get (c : Config) (address : Addr) :
    decodeSent c (Machine.getFrame c address) = .ok (.get address) := by
  simp [decodeSent, Machine.getFrame]

theorem cmdSet_ne_cmdGet {c : Config} (codes : c.CodesDistinct) : c.cmdSet ≠ c.cmdGet := by
  simp at codes
  tauto

/-- The command codes tell a SET from a GET (R232). -/
theorem decodeSent_set {c : Config} (codes : c.CodesDistinct) (address : Addr) (payload : List Byte) :
    decodeSent c (Machine.setFrame c address payload) = .ok (.set address payload) := by
  simp [decodeSent, Machine.setFrame, cmdSet_ne_cmdGet codes]

/-- R84: with distinct codes (R232) the frame of a received-frame operation selects that operation. -/
theorem decodeReceived_receivedFrame {c : Config} {i : Instr} {f : Frame} (codes : c.CodesDistinct)
    (wf : i.wf c = true) (hf : Machine.receivedFrame c i = some f) : decodeReceived c f = i := by
  have distinct : c.cmdNak ≠ c.cmdAck ∧ c.cmdErr ≠ c.cmdAck ∧ c.cmdErr ≠ c.cmdNak := by simp at codes; tauto
  obtain ⟨nakNeAck, errNeAck, errNeNak⟩ := distinct
  cases i with
  | ack => cases hf; simp [decodeReceived]
  | nak => cases hf; simp [decodeReceived, nakNeAck]
  | err => cases hf; simp [decodeReceived, errNeAck, errNeNak]
  | other cmd =>
    cases hf
    simp only [Instr.wf, Config.notResponse, Bool.and_eq_true, bne_iff_ne] at wf
    simp [decodeReceived, wf]
  | _ => cases hf

/-- R81: a well-formed received-frame operation carries a payload that fits. -/
theorem payload_le_of_receivedFrame {c : Config} {i : Instr} {f : Frame} (wf : i.wf c = true)
    (hf : Machine.receivedFrame c i = some f) : f.payload.length ≤ c.maxPayload := by
  cases i with
  | ack | nak | err => cases hf; exact of_decide_eq_true wf
  | other => cases hf; exact of_decide_eq_true (Bool.and_eq_true_iff.1 wf).2
  | _ => cases hf

theorem encode_of_receivedFrame {c : Config} {i : Instr} {f : Frame} (hf : Machine.receivedFrame c i = some f) :
    encode c i = .received (frameBytes f) := by
  cases i with
  | ack | nak | err | other => cases hf; rfl
  | _ => cases hf

theorem decode_encode_receivedFrame {c : Config} {i : Instr} {f : Frame} (codes : c.CodesDistinct)
    (wf : i.wf c = true) (hf : Machine.receivedFrame c i = some f) : decode c (encode c i) = .ok i := by
  rw [encode_of_receivedFrame hf, decode_received (payload_le_of_receivedFrame wf hf),
    decodeReceived_receivedFrame codes wf hf]

/-! ### Received bytes (R82) -/

/-- Each byte is the word of the row it selects: a row with operand bits fixes the bits above them. -/
theorem encode_decodeByte (c : Config) (b : Byte) : encode c (decodeByte b) = .rx b := by
  have split3 : b.extractLsb' 3 5 ++ b.extractLsb' 0 3 = b := by revert b; decide
  have split1 : b.extractLsb' 1 7 ++ b.extractLsb' 0 1 = b := by revert b; decide
  unfold decodeByte
  split_ifs with colon cr lf h07 h89 hA hBC hDE hF
  · rw [colon]; rfl
  · rw [cr]; rfl
  · rw [lf]; rfl
  · rw [encode, hexByte07, ← h07, split3]
  · rw [encode, hexByte89, ← h89, split1]
  · rw [hA]; rfl
  · rw [encode, hexByteBC, ← hBC, split1]
  · rw [encode, hexByteDE, ← hDE, split1]
  · rw [hF]; rfl
  · rfl

theorem byteClass_of_isOther : ∀ {b : Byte}, Byte.isOther b = true → byteClass b = .other := by decide

/-- R82: a byte of class OTHER selects the row FEED.OTHER. -/
theorem decodeByte_of_other {b : Byte} (other : byteClass b = .other) : decodeByte b = .feedOther b := by
  rcases Machine.decodeByte_cases b with ⟨-, k⟩ | ⟨-, k⟩ | ⟨k, -⟩ | ⟨e, -⟩
  · cases k.symm.trans other
  · cases k.symm.trans other
  · cases k.symm.trans other
  · exact e

/-- A received-byte operation is the row its own byte selects. -/
theorem decode_encode_feed {c : Config} {i : Instr} (feed : Machine.isFeed i = true) (wf : i.wf c = true) :
    decode c (encode c i) = .ok i := by
  have row07 : ∀ k, decodeByte (hexByte07 k) = .feedHex07 k := by decide
  have row89 : ∀ k, decodeByte (hexByte89 k) = .feedHex89 k := by decide
  have rowBC : ∀ k, decodeByte (hexByteBC k) = .feedHexBC k := by decide
  have rowDE : ∀ k, decodeByte (hexByteDE k) = .feedHexDE k := by decide
  cases i with
  | feedColon | feedCr | feedLf | feedHexA | feedHexF => rfl
  | feedHex07 k => exact congrArg Except.ok (row07 k)
  | feedHex89 k => exact congrArg Except.ok (row89 k)
  | feedHexBC k => exact congrArg Except.ok (rowBC k)
  | feedHexDE k => exact congrArg Except.ok (rowDE k)
  | feedOther b => exact congrArg Except.ok (decodeByte_of_other (byteClass_of_isOther wf))
  | _ => cases feed

/-! ### The request port (R35, R86) -/

theorem packNat_lt (bs : List Byte) : packNat bs < 256 ^ bs.length := by
  induction bs with
  | nil => simp [packNat]
  | cons b bs ih =>
    have := b.isLt
    rw [packNat, List.length_cons, Nat.pow_succ]
    omega

/-- The digits of `packNat` to the base 256 are the bytes. -/
theorem packNat_digit (bs : List Byte) (k : Nat) : packNat bs / 256 ^ k % 256 = (bs.getD k 0).toNat := by
  induction bs generalizing k with
  | nil => simp [packNat]
  | cons b bs ih =>
    have := b.isLt
    cases k with
    | zero => simp [packNat]; omega
    | succ k =>
      have shift : (b.toNat + 256 * packNat bs) / 256 = packNat bs := by omega
      rw [packNat, Nat.pow_succ', ← Nat.div_div_eq_div_mul, shift, ih, List.getD_cons_succ]

theorem dataLane_packData {bs : List Byte} (fits : bs.length ≤ Config.dataLanes) (k : Nat) :
    dataLane (packData bs) k = bs.getD k 0 := by
  apply BitVec.eq_of_toNat_eq
  have small : packNat bs < 2 ^ 256 :=
    (packNat_lt bs).trans_le (Nat.pow_le_pow_right (n := 256) (by decide) fits)
  rw [← packNat_digit, dataLane, packData, BitVec.extractLsb'_toNat, BitVec.toNat_ofNat, Nat.mod_eq_of_lt small,
    Nat.shiftRight_eq_div_pow, Nat.pow_mul]

@[simp] theorem unpackData_length (data : BitVec 256) : (unpackData data).length = 32 := by
  simp [unpackData, Config.dataLanes]

theorem unpackData_getElem? (data : BitVec 256) {k : Nat} (hk : k < 32) :
    (unpackData data)[k]? = some (dataLane data k) := by
  simp [unpackData, Config.dataLanes, hk]

/-- R35: 32 data bytes are read back from the lanes that carry them. -/
theorem unpackData_packData {bs : List Byte} (lanes : bs.length = Config.dataLanes) : unpackData (packData bs) = bs := by
  refine List.ext_getElem? fun k => ?_
  by_cases hk : k < 32
  · rw [unpackData_getElem? _ hk, dataLane_packData lanes.le, List.getD_eq_getElem?_getD]
    simp [show k < bs.length from lanes ▸ hk]
  · rw [List.getElem?_eq_none (by simp; omega), List.getElem?_eq_none (by rw [lanes, Config.dataLanes]; omega)]

theorem decode_reqGet {c : Config} {tag : Nat} (htag : tag < 2 ^ c.wTag) (addr : Addr) (len : BitVec 6)
    (data : BitVec 256) : decode c (.req 1 addr len data tag) = .ok (.reqGet addr tag) := by
  simp [decode, decodeReq, Nat.mod_eq_of_lt htag]

theorem decode_reqSet {c : Config} {tag : Nat} (htag : tag < 2 ^ c.wTag) (addr : Addr) (len : BitVec 6)
    (data : BitVec 256) : decode c (.req 2 addr len data tag) = .ok (.reqSet addr len (unpackData data) tag) := by
  simp [decode, decodeReq, Nat.mod_eq_of_lt htag]

theorem decode_cancel {c : Config} {tag : Nat} (htag : tag < 2 ^ c.wTag) (addr : Addr) (len : BitVec 6)
    (data : BitVec 256) : decode c (.req 3 addr len data tag) = .ok (.cancel tag) := by
  simp [decode, decodeReq, Nat.mod_eq_of_lt htag]

/-! ### Settling the obligations about words -/

/-- Settles O55: the ports one after another, each by the lemma that reads its words back. -/
theorem decodeOfEncodedOperation : Obligations.DecodeOfEncodedOperation := by
  intro c i valid wf
  obtain ⟨codes, -⟩ := valid
  cases i with
  | get address => exact (decode_sent (Nat.zero_le _)).trans (decodeSent_get c address)
  | set address payload =>
    have fits : payload.length ≤ c.maxPayload := of_decide_eq_true wf
    exact (decode_sent fits).trans (decodeSent_set codes address payload)
  | ack | nak | err | other => exact decode_encode_receivedFrame codes wf rfl
  | reqGet address tag => exact decode_reqGet (of_decide_eq_true wf) address 0 0
  | reqSet address len data tag =>
    simp only [Instr.wf, Config.tagFits, Bool.and_eq_true, beq_iff_eq, decide_eq_true_eq] at wf
    obtain ⟨lanes, htag⟩ := wf
    rw [encode, decode_reqSet htag, unpackData_packData lanes]
  | cancel tag => exact decode_cancel (of_decide_eq_true wf) 0 0 0
  | feedColon | feedCr | feedLf | feedHex07 | feedHex89 | feedHexA | feedHexBC | feedHexDE | feedHexF | feedOther =>
    exact decode_encode_feed rfl wf
  | reqNone | txByte | tick | reset | encode => rfl

/-- Settles O56: only a link word can be no operation; the rest is what the decoder's own lemmas say. -/
theorem decodingIsTotalAndWellFormed : Obligations.DecodingIsTotalAndWellFormed := by
  refine ⟨fun c w port => ?_, fun c f fits => ⟨_, decode_received fits⟩, fun c w i => wf_of_decode, encode_decodeByte⟩
  cases w with
  | sent bs => exact absurd rfl (port bs).1
  | received bs => exact absurd rfl (port bs).2
  | rst | rx | tick | req | txReady | encode => exact ⟨_, rfl⟩

/-- Settles O54: each word is written out, so the decoder runs on it. -/
theorem writtenOutWordsDecode : Obligations.WrittenOutWordsDecode :=
  ⟨rfl, rfl, rfl, rfl, rfl, rfl, rfl, rfl, rfl, rfl, rfl, rfl⟩

/-- Settles O26: one lemma for each `req_op`, and the row `REQ_NONE` with the port ready. -/
theorem requestPortSelectsTheOperation : Obligations.RequestPortSelectsTheOperation := by
  refine ⟨fun c addr len data tag htag => ⟨rfl, decode_reqGet htag addr len data,
    ⟨unpackData data, decode_reqSet htag addr len data, unpackData_length data, fun k => unpackData_getElem? data⟩,
    decode_cancel htag addr len data⟩, fun s room => ?_⟩
  have ready : Machine.reqReady s 0 = true := (Machine.reqReady_iff s 0).2 (.inl room)
  exact congrArg Host.Outcome.next (if_pos ready)

end Sys2Proof

/-! ## The byte classes (R82, R83) -/

namespace Sys2Proof

theorem byteClass_eq_colon_iff : ∀ b : Byte, byteClass b = .colon ↔ b = 0x3A := by decide

theorem byteClass_eq_term_iff : ∀ b : Byte, byteClass b = .term ↔ b = 0x0D ∨ b = 0x0A := by decide

theorem byteClass_eq_hexDigit_iff :
    ∀ b : Byte, byteClass b = .hexDigit ↔ (0x30 ≤ b ∧ b ≤ 0x39) ∨ (0x41 ≤ b ∧ b ≤ 0x46) := by decide

/-- R83: lower case is not hex. -/
theorem byteClass_lowerCase : ∀ b : Byte, 0x61 ≤ b ∧ b ≤ 0x66 → byteClass b = .other := by decide

/-- `HexVal` fits its four bits on every hex digit. -/
theorem hexVal_toNat {b : Byte} (hb : byteClass b = .hexDigit) :
    (hexVal b).toNat = if b ≤ 0x39 then b.toNat - 0x30 else b.toNat - 0x37 := by
  rw [byteClass_eq_hexDigit_iff] at hb
  have digit : (0x30 ≤ b.toNat ∧ b.toNat ≤ 0x39) ∨ (0x41 ≤ b.toNat ∧ b.toNat ≤ 0x46) := hb
  have test : b ≤ 0x39 ↔ b.toNat ≤ 0x39 := Iff.rfl
  simp only [hexVal, BitVec.toNat_ofNat, test]
  split <;> omega

theorem hexChar_hexVal : ∀ b : Byte, byteClass b = .hexDigit → Machine.hexChar (hexVal b) = b := by decide

theorem byteClass_above_F : ∀ b : Byte, 0x47 ≤ b → byteClass b = .other := by decide

/-- The bytes up to `F` decide the count of a class: the other 185 are all of class OTHER. -/
theorem byteClass_count (k : ByteClass) :
    ((List.range 256).map (fun n => byteClass (BitVec.ofNat 8 n))).count k =
      ((List.range 71).map (fun n => byteClass (BitVec.ofNat 8 n))).count k + if ByteClass.other = k then 185 else 0 := by
  have high : ((List.range 185).map (71 + ·)).map (fun n => byteClass (BitVec.ofNat 8 n)) =
      List.replicate 185 .other := by
    refine List.eq_replicate_iff.2 ⟨by simp, fun x hx => ?_⟩
    simp only [List.map_map, List.mem_map, List.mem_range, Function.comp_apply] at hx
    obtain ⟨n, hn, rfl⟩ := hx
    have le : 71 ≤ (71 + n) % 2 ^ 8 := by omega
    exact byteClass_above_F _ le
  rw [List.range_add (n := 71) (m := 185), List.map_append, List.count_append, high, List.count_replicate]
  simp

theorem byteClass_count_to_F :
    let low := (List.range 71).map (fun n => byteClass (BitVec.ofNat 8 n))
    low.count .colon = 1 ∧ low.count .hexDigit = 16 ∧ low.count .term = 2 ∧ low.count .other = 52 :=
  ⟨by decide, by decide, by decide, by decide⟩

/-- Settles O8: the classes by their bytes, their counts, and `HexVal` against `HexChar` in both directions. -/
theorem byteClassesPartitionTheBytes : Obligations.ByteClassesPartitionTheBytes := by
  obtain ⟨colon, hexDigit, term, other⟩ := byteClass_count_to_F
  refine ⟨fun b => ⟨byteClass_eq_colon_iff b, byteClass_eq_term_iff b, byteClass_eq_hexDigit_iff b, byteClass_lowerCase b⟩,
    ?_, ?_, ?_, ?_, fun d => ⟨Machine.byteClass_hexChar d, Machine.hexVal_hexChar d⟩,
    fun b hb => ⟨hexChar_hexVal b hb, hexVal_toNat hb⟩⟩
  · rw [byteClass_count, colon]; rfl
  · rw [byteClass_count, hexDigit]; rfl
  · rw [byteClass_count, term]; rfl
  · rw [byteClass_count, other]; rfl

end Sys2Proof

/-! ## The request frames of the head (R91, R92, R105, R144; log 7) -/

namespace Sys2Proof.Machine

theorem frameOf_of_get {c : Config} {h : Transaction} (hop : h.op = .get) : frameOf c h = getFrame c h.address := by
  simp [frameOf, hop]

theorem frameOf_of_set {c : Config} {h : Transaction} (hop : h.op = .set) :
    frameOf c h = setFrame c h.address (h.data.take h.len) := by
  simp [frameOf, hop]

theorem exec_get (address : Addr) (s : State) :
    exec (.get address) s = .next (sendFrame (getFrame s.config address) s.startEvent) := rfl

theorem exec_set (address : Addr) (payload : List Byte) (s : State) :
    exec (.set address payload) s = .next (sendFrame (setFrame s.config address payload) s.startEvent) := rfl

/-! ### When the frame is sent -/

/-- R144: the head's own frame is loaded when the head wants it sent and the wire is free. -/
theorem sendFrame_load {s : State} {h : Transaction} {rest : List Transaction} {f : Frame} (hq : s.queue = h :: rest)
    (hf : frameOf s.config h = f) (wants : h.state = .queued ∨ h.state = .retryPending) (free : s.txBuf = [])
    (fits : f.payload.length ≤ s.config.maxPayload) : sendFrame f s = loadHead h rest (wireForm f) s := by
  subst hf
  have issue : sendFrame (frameOf s.config h) s = tryIssue s := by simp [sendFrame, hq]
  rw [issue, tryIssue_load hq ((wantsToSend_iff h).2 wants) ((wireBusy_eq_false s).2 free) fits]

/-! ### When nothing is sent -/

/-- Nothing is sent when there is nothing to issue. -/
theorem sendFrame_of_tryIssue_eq {s : State} (settled : tryIssue s = s) (f : Frame) : sendFrame f s = s := by
  rcases sendFrame_cases f s with e | ⟨-, e⟩
  · exact e
  · exact e.trans settled

/-- Nothing is sent when the frame is not the head's. -/
theorem sendFrame_of_ne {s : State} {h : Transaction} {rest : List Transaction} {f : Frame} (hq : s.queue = h :: rest)
    (ne : frameOf s.config h ≠ f) : sendFrame f s = s := by
  simp [sendFrame, hq, ne]

/-- Nothing is sent for another address, for a head that waits, and into a busy wire. -/
theorem sendFrame_blocked {s : State} {h : Transaction} {rest : List Transaction} {f : Frame} (hq : s.queue = h :: rest)
    (blocked : h.address ≠ f.address ∨ h.state = .waiting ∨ s.txBuf ≠ []) : sendFrame f s = s := by
  rcases blocked with address | waiting | busy
  · exact sendFrame_of_ne hq fun e => address (e ▸ frameOf_address s.config h).symm
  · exact sendFrame_of_tryIssue_eq (tryIssue_settled hq (by simp [Transaction.wantsToSend, waiting])) f
  · exact sendFrame_of_tryIssue_eq (tryIssue_busy ((wireBusy_iff s).2 busy)) f

theorem getFrame_ne_setFrame {c : Config} (codes : c.CodesDistinct) (a a' : Addr) (payload : List Byte) :
    getFrame c a ≠ setFrame c a' payload :=
  fun e => cmdSet_ne_cmdGet codes (congrArg Frame.cmd e).symm

/-- Settles O22: the head's own frame is loaded; every other case is one in which `sendFrame` sends nothing. -/
theorem requestFramesAreSentForTheHead : Obligations.RequestFramesAreSentForTheHead := by
  refine ⟨fun s h rest hq wants free => ⟨fun hop => ?get, fun hop hlen fits => ?set⟩, fun s address payload =>
    ⟨fun empty => ?empty, fun h rest hq =>
      ⟨fun blocked => ?blocked, fun codes hop => ?getForSet, fun codes hop => ?setForGet, fun hop ne => ?value⟩⟩⟩
  case get =>
    have sent := sendFrame_load (s := s.startEvent) hq (frameOf_of_get hop) wants free (Nat.zero_le _)
    exact congrArg Host.Outcome.next sent
  case set =>
    have hf : frameOf s.config h = setFrame s.config h.address h.data := by
      rw [frameOf_of_set hop, ← hlen, List.take_length]
    have sent := sendFrame_load (s := s.startEvent) hq hf wants free (hlen.trans_le fits)
    exact congrArg Host.Outcome.next sent
  case empty =>
    have unsent (f : Frame) := sendFrame_of_tryIssue_eq (s := s.startEvent) (tryIssue_nil empty) f
    exact ⟨congrArg Host.Outcome.next (unsent _), congrArg Host.Outcome.next (unsent _)⟩
  case blocked =>
    exact ⟨congrArg Host.Outcome.next (sendFrame_blocked (s := s.startEvent) hq blocked),
      congrArg Host.Outcome.next (sendFrame_blocked (s := s.startEvent) hq blocked)⟩
  case getForSet =>
    have other : frameOf s.config h ≠ getFrame s.config address :=
      frameOf_of_set hop ▸ (getFrame_ne_setFrame codes _ _ _).symm
    exact congrArg Host.Outcome.next (sendFrame_of_ne (s := s.startEvent) hq other)
  case setForGet =>
    have other : frameOf s.config h ≠ setFrame s.config address payload :=
      frameOf_of_get hop ▸ getFrame_ne_setFrame codes _ _ _
    exact congrArg Host.Outcome.next (sendFrame_of_ne (s := s.startEvent) hq other)
  case value =>
    have other : frameOf s.config h ≠ setFrame s.config address payload := fun e =>
      ne (congrArg Frame.payload ((frameOf_of_set hop).symm.trans e)).symm
    exact congrArg Host.Outcome.next (sendFrame_of_ne (s := s.startEvent) hq other)

end Sys2Proof.Machine


/-! ## The checksum (R101) -/

namespace Sys2Proof

/-- The 8-bit accumulator holds the byte sum reduced modulo 256: discarding a carry is reducing. -/
theorem foldl_add_eq_sumBytes (bs : List Byte) (start : Byte) :
    bs.foldl (fun acc b => acc + b) start = start + BitVec.ofNat 8 (sumBytes bs) := by
  induction bs generalizing start with
  | nil => simp
  | cons b bs ih =>
    rw [List.foldl_cons, ih, sumBytes_cons, BitVec.ofNat_add, BitVec.ofNat_toNat, BitVec.setWidth_eq, BitVec.add_assoc]

/-- R101 in the accumulator's own arithmetic. -/
theorem checksum_eq_neg (bs : List Byte) : checksum bs = -BitVec.ofNat 8 (sumBytes bs) := by
  apply BitVec.eq_of_toNat_eq
  rw [checksum_toNat, BitVec.toNat_neg, BitVec.toNat_ofNat]

/-- R76: the bytes with their checksum sum to 0. -/
theorem sumBytes_add_checksum_mod (bs : List Byte) : (sumBytes bs + (checksum bs).toNat) % 256 = 0 := by
  rw [checksum_toNat]
  omega

/-- Settles O3: the checksum's value, the accumulator, the zero sum, and the corner cases, which are closed. -/
theorem checksumNegatesTheByteSum : Obligations.ChecksumNegatesTheByteSum := by
  refine ⟨fun bs => ⟨checksum_toNat bs, ?accumulator, sumBytes_add_checksum_mod bs⟩,
    by decide, by decide, by decide, by decide⟩
  case accumulator => rw [foldl_add_eq_sumBytes, checksum_eq_neg, zero_add]

end Sys2Proof

/-! ## The encoder and its round trip (R102 to R104) -/

namespace Sys2Proof.Machine

/-! ### What `Encode` returns -/

theorem encodeFrame_of_le {c : Config} {f : Frame} (fits : f.payload.length ≤ c.maxPayload) :
    encodeFrame c f = .bytes (wireForm f) :=
  if_neg (Nat.not_lt.2 fits)

/-- R103: the one way to `EncodeError`. -/
theorem encodeFrame_eq_encodeError_iff (c : Config) (f : Frame) :
    encodeFrame c f = .encodeError ↔ c.maxPayload < f.payload.length := by
  simp [encodeFrame]

/-- R102: the frames that encode are those that fit, and they encode to their wire form. -/
theorem encodeFrame_eq_bytes_iff (c : Config) (f : Frame) (w : List Byte) :
    encodeFrame c f = .bytes w ↔ f.payload.length ≤ c.maxPayload ∧ wireForm f = w := by
  by_cases fits : f.payload.length ≤ c.maxPayload
  · simp [encodeFrame_of_le fits, fits]
  · simp [(encodeFrame_eq_encodeError_iff c f).2 (Nat.not_le.1 fits), fits]

theorem exec_encode (f : Frame) (s : State) :
    exec (.encode f) s = .next (s.startEvent.emitEncoded (encodeFrame s.config f)) := rfl

/-! ### Reading a wire form back -/

theorem frameNibbles_length (f : Frame) :
    ((frameBytes f).flatMap byteNibbles).length = 2 * (f.payload.length + 5) := by
  rw [byteNibbles_length, frameBytes_length]

/-- R126: the digits of a frame's bytes validate to the Frame. -/
theorem validate_frameNibbles (f : Frame) : validate ((frameBytes f).flatMap byteNibbles) false = .frame f := by
  have even : 2 * (f.payload.length + 5) % 2 ≠ 1 := by omega
  have long : ¬ 2 * (f.payload.length + 5) / 2 < Config.minFrameBytes := by
    rw [Config.minFrameBytes, Config.hdrBytes]
    omega
  rw [validate, frameNibbles_length, nibbleBytes_byteNibbles, frameFields_frameBytes, if_neg Bool.false_ne_true,
    if_neg even, if_neg long, if_neg (not_not.2 (sumBytes_frameBytes_mod f))]

/-- R121: a `:` begins an empty collection, whatever was before. -/
theorem feedAll_colon_cons (c : Config) (bs : List Byte) (r : Deframer) :
    r.feedAll c (0x3A :: bs) = Deframer.feedAll c bs { state := .collecting, nib := [], bad := false } := rfl

/-- R77: after the `:` and the digits the collection holds the digits of the frame's bytes, and nothing has been
reported. -/
theorem feedAll_colon_digits {c : Config} {f : Frame} (fits : f.payload.length ≤ c.maxPayload) (r : Deframer) :
    r.feedAll c (0x3A :: ((frameBytes f).flatMap byteNibbles).map hexChar) =
      ([], { state := .collecting, nib := (frameBytes f).flatMap byteNibbles, bad := false }) := by
  have room : ((frameBytes f).flatMap byteNibbles).length ≤ c.maxHexChars := by
    rw [frameNibbles_length, Config.maxHexChars, Config.maxFrameBytes, Config.hdrBytes]
    omega
  rw [feedAll_colon_cons, feedAll_hexChars c _ _ rfl (by simpa using room), List.nil_append]

/-- R125, R122: CR validates a collection, and the LF behind it finds the decoder in IDLE. -/
theorem feedAll_terminator (c : Config) (nib : List Nibble) (bad : Bool) :
    Deframer.feedAll c [0x0D, 0x0A] { state := .collecting, nib := nib, bad := bad } =
      (if validate nib bad = .noResult then [] else [validate nib bad], Deframer.idle) := rfl

/-- R104, R130: whatever stands in the decoder, the wire form of a Frame that fits is read as that Frame alone. -/
theorem feedAll_wireForm {c : Config} {f : Frame} (fits : f.payload.length ≤ c.maxPayload) (r : Deframer) :
    r.feedAll c (wireForm f) = ([.frame f], Deframer.idle) := by
  rw [wireForm_eq, feedAll_append, feedAll_colon_digits fits, feedAll_terminator, validate_frameNibbles]
  rfl

theorem decodeWire_wireForm {c : Config} {f : Frame} (fits : f.payload.length ≤ c.maxPayload) :
    decodeWire c (wireForm f) = [.frame f] := by
  rw [decodeWire, feedAll_wireForm fits]

/-- Settles O6: the decoder reads each wire form back, so no two Frames share one. -/
theorem decodeOfEncodeIsTheFrame : Obligations.DecodeOfEncodeIsTheFrame := by
  intro c f g w v hw hv
  obtain ⟨fitsF, rfl⟩ := (encodeFrame_eq_bytes_iff c f w).1 hw
  obtain ⟨fitsG, rfl⟩ := (encodeFrame_eq_bytes_iff c g v).1 hv
  refine ⟨sumBytes_frameBytes_mod f, decodeWire_wireForm fitsF, fun same => ?_⟩
  have read : [RxResult.frame f] = [RxResult.frame g] := by
    rw [← decodeWire_wireForm fitsF, same, decodeWire_wireForm fitsG]
  cases read
  rfl

/-! ### The event ENCODE -/

theorem addrLow_eq_setWidth (a : Addr) : addrLow a = a.setWidth 8 := by
  apply BitVec.eq_of_toNat_eq
  simp [addrLow_toNat]

theorem addrHigh_eq_setWidth (a : Addr) : addrHigh a = (a >>> 8).setWidth 8 := by
  apply BitVec.eq_of_toNat_eq
  simp [addrHigh]

/-- R71: the bytes the checksum covers, with the address cut by shift and truncation. -/
theorem frameHead_eq (f : Frame) :
    frameHead f = [f.cmd, f.address.setWidth 8, (f.address >>> 8).setWidth 8, f.flags] ++ f.payload := by
  rw [← addrLow_eq_setWidth, ← addrHigh_eq_setWidth]
  rfl

/-- R78: bytes are written in upper-case hex digits only. -/
theorem byteClass_of_mem_hexPairs {bs : List Byte} {b : Byte} (h : b ∈ bs.flatMap hexPair) :
    byteClass b = .hexDigit := by
  obtain ⟨byte, -, hb⟩ := List.mem_flatMap.1 h
  rw [hexPair_eq] at hb
  obtain ⟨digit, -, rfl⟩ := List.mem_map.1 hb
  exact byteClass_hexChar digit

/-- Settles O4: the statement's bytes are the wire form written out, which `Encode` returns. -/
theorem encodeProducesTheWireForm : Obligations.EncodeProducesTheWireForm := by
  intro s f fits head body w
  have hhead : head = frameHead f := (frameHead_eq f).symm
  have hbody : body = (frameBytes f).flatMap hexPair := by
    show (head ++ [checksum head]).flatMap hexPair = _
    rw [hhead]
    rfl
  have hw : w = wireForm f := by
    show [0x3A] ++ body ++ [0x0D, 0x0A] = _
    rw [hbody]
    rfl
  refine ⟨?_, hw ▸ wireForm_length f, fun b hb => byteClass_of_mem_hexPairs (hbody ▸ hb)⟩
  rw [exec_encode, encodeFrame_of_le fits, hw]
  rfl

/-- Settles O5: the event shows what `Encode` returns, and that is `EncodeError` exactly above `MAX_PAYLOAD`. -/
theorem encodeErrorExactlyWhenPayloadTooLong : Obligations.EncodeErrorExactlyWhenPayloadTooLong := by
  refine fun s f => ⟨fun tooLong => ?_, (encodeFrame_eq_encodeError_iff s.config f).1⟩
  rw [exec_encode, (encodeFrame_eq_encodeError_iff s.config f).2 tooLong]
  rfl

end Sys2Proof.Machine

/-! ## The transmitter (R105 to R107) -/

namespace Sys2Proof.Machine

theorem exec_txByte_nil {s : State} (empty : s.txBuf = []) : exec .txByte s = .next s.startEvent := by
  simp [exec, execTxByte, empty]

/-- R106: the first byte goes out, and the issue procedure runs on what is left. -/
theorem exec_txByte_cons {s : State} {b : Byte} {rest : List Byte} (loaded : s.txBuf = b :: rest) :
    exec .txByte s = .next (tryIssue ((s.startEvent.emitTx b).withTx rest)) := by
  simp [exec, execTxByte, loaded]

/-- Settles O18: the two cases of the transmitter; a byte that is not the last leaves the wire busy, so nothing is
issued. -/
theorem txByteTakesTheFirstByte : Obligations.TxByteTakesTheFirstByte := by
  refine fun s => ⟨fun b rest loaded => ⟨exec_txByte_cons loaded, fun more => ?_⟩, exec_txByte_nil⟩
  have busy : wireBusy ((s.startEvent.emitTx b).withTx rest) = true := (wireBusy_iff _).2 more
  rw [exec_txByte_cons loaded, tryIssue_busy busy]
  rfl

theorem wireLeft_eq_txBuf {i : Instr} (noTxByte : i ≠ .txByte) (noReset : i ≠ .reset) (s : State) :
    wireLeft i s = s.txBuf := by
  cases i with
  | txByte => exact absurd rfl noTxByte
  | reset => exact absurd rfl noReset
  | _ => rfl

/-- R107: the issue procedure loads nothing over bytes still to be sent, so these are what an operation leaves. -/
theorem exec_txBuf_of_wireLeft_ne_nil {i : Instr} {s t : State} (h : exec i s = .next t) (busy : wireLeft i s ≠ []) :
    t.txBuf = wireLeft i s := by
  rcases exec_engineMoves h with ⟨⟨tx, -⟩, wire, -⟩ | ⟨u, rfl, -, tx⟩
  · exact tx.trans wire.symm
  · rw [tryIssue_busy ((wireBusy_iff u).2 (tx ▸ busy)), tx]

/-- R107: behind its last byte a frame can be followed by the head's frame only. -/
theorem exec_txByte_last {s t : State} {b : Byte} (last : s.txBuf = [b]) (h : exec .txByte s = .next t) :
    t.txBuf = [] ∨
      ∃ x tail, s.queue = x :: tail ∧ x.wantsToSend = true ∧ t.txBuf = wireForm (frameOf s.config x) := by
  rw [exec_txByte_cons last] at h
  cases h
  rcases tryIssue_cases ((s.startEvent.emitTx b).withTx []) with e | ⟨x, tail, hq, wants, -, -, e⟩ <;> rw [e]
  · exact .inl rfl
  · exact .inr ⟨x, tail, hq, wants, rfl⟩

/-- Settles O19: the bytes an operation leaves stay as they are, and only after the last one is there room for a
frame. -/
theorem loadedFrameIsSentWhole : Obligations.LoadedFrameIsSentWhole := by
  intro i s t b rest noReset loaded h
  refine ⟨fun noTxByte => ?kept, fun hi more => ?taken, fun hi none => ?last⟩
  case kept =>
    have left : wireLeft i s = s.txBuf := wireLeft_eq_txBuf noTxByte noReset s
    rw [exec_txBuf_of_wireLeft_ne_nil h (by simp [left, loaded]), left]
  case taken =>
    have left : wireLeft i s = rest := by simp [hi, wireLeft, loaded]
    rw [exec_txBuf_of_wireLeft_ne_nil h (left ▸ more), left]
  case last =>
    subst hi none
    exact exec_txByte_last loaded h

/-- Settles O21: `FrameOf` by the kind of the transaction, reading none of the fields an attempt writes. -/
theorem everyAttemptSendsTheSameFrame : Obligations.EveryAttemptSendsTheSameFrame :=
  fun _ _ _ _ _ => ⟨frameOf_of_get, frameOf_of_set, rfl⟩

end Sys2Proof.Machine

/-! ## The deframer's cases (R120 to R125) -/

namespace Sys2Proof.Machine

/-! ### The event RX_BYTE as one equation -/

/-- The deframer's case that a received-byte row runs (the table of R120). -/
def deframerCase (c : Config) (i : Instr) : Deframer → Deframer × RxResult :=
  match digitOf i with
  | some d => Deframer.onHexDigit c d
  | none =>
    match i with
    | .feedColon => Deframer.onColon
    | .feedCr | .feedLf => Deframer.onTerm
    | _ => Deframer.onOther

theorem deframerCase_of_digitOf {i : Instr} {d : Nibble} (hd : digitOf i = some d) (c : Config) :
    deframerCase c i = Deframer.onHexDigit c d := by
  simp [deframerCase, hd]

theorem isFeed_of_digitOf {i : Instr} {d : Nibble} (hd : digitOf i = some d) : isFeed i = true := by
  cases i with
  | feedHex07 | feedHex89 | feedHexA | feedHexBC | feedHexDE | feedHexF => rfl
  | _ => cases hd

/-- R120: every received-byte row is its case of the deframer inside the RX_BYTE envelope. -/
theorem exec_feed {i : Instr} (hi : isFeed i = true) (s : State) :
    exec i s = .next (rxEvent (deframerCase s.config i) s) := by
  rcases exec_feed_cases i s hi with ⟨rfl, e⟩ | ⟨rfl | rfl, e⟩ | ⟨d, hd, e⟩ | ⟨-, ⟨b, rfl⟩, e⟩
  · exact e
  · exact e
  · exact e
  · rw [deframerCase_of_digitOf hd, e]
  · exact e

/-- A received byte without a result leaves all but the deframer as it is, and shows NONE. -/
theorem exec_feed_noResult {i : Instr} {s : State} {r : Deframer} (hi : isFeed i = true)
    (hcase : deframerCase s.config i s.rx = (r, .noResult)) :
    exec i s = .next { s.startEvent with rx := r, out := { Outputs.quiet with rx := some .noResult } } := by
  rw [exec_feed hi, rxEvent_noFrame _ _ (by simp [hcase]), hcase]

/-! ### The cases, by the deframer's state -/

theorem onTerm_collecting {r : Deframer} (hr : r.state = .collecting) :
    r.onTerm = (Deframer.idle, validate r.nib r.bad) := by
  simp [Deframer.onTerm, hr, Deframer.idle, rxBadCleared]

theorem onOther_collecting {r : Deframer} (hr : r.state = .collecting) :
    r.onOther = ({ r with bad := true }, .noResult) := by
  simp [Deframer.onOther, hr, rxBadAfterOther]

/-- R123: a digit is stored while there is room, and marks the line malformed after that. -/
theorem onHexDigit_collecting {r : Deframer} (hr : r.state = .collecting) (c : Config) (d : Nibble) :
    r.onHexDigit c d =
      (if r.nib.length < c.maxHexChars then { r with nib := r.nib ++ [d] } else { r with bad := true }, .noResult) := by
  by_cases room : r.nib.length < c.maxHexChars
  · simp [Deframer.onHexDigit, hr, rxBadAfterDigit, collectorFull, room]
  · simp [Deframer.onHexDigit, hr, rxBadAfterDigit, collectorFull, room, Nat.not_lt.1 room]

theorem onTerm_idle {r : Deframer} (hr : r.state = .idle) : r.onTerm = (r, .noResult) := by
  rw [Deframer.onTerm, hr]

theorem onOther_idle {r : Deframer} (hr : r.state = .idle) : r.onOther = (r, .noResult) := by
  rw [Deframer.onOther, hr]

theorem onHexDigit_idle {r : Deframer} (hr : r.state = .idle) (c : Config) (d : Nibble) :
    r.onHexDigit c d = (r, .noResult) := by
  rw [Deframer.onHexDigit, hr]

/-- R122: only the row of `:` does anything in IDLE. -/
theorem deframerCase_idle {i : Instr} {r : Deframer} (hr : r.state = .idle) (hi : isFeed i = true)
    (noColon : i ≠ .feedColon) (c : Config) : deframerCase c i r = (r, .noResult) := by
  cases i with
  | feedColon => exact absurd rfl noColon
  | feedCr | feedLf => exact onTerm_idle hr
  | feedHex07 | feedHex89 | feedHexA | feedHexBC | feedHexDE | feedHexF => exact onHexDigit_idle hr c _
  | feedOther => exact onOther_idle hr
  | _ => cases hi

theorem isFeed_decodeByte : ∀ b : Byte, isFeed (decodeByte b) = true := by decide

theorem decodeByte_ne_feedColon : ∀ {b : Byte}, b ≠ 0x3A → decodeByte b ≠ .feedColon := by decide

/-! ### What each class of byte does -/

/-- Settles O9: the case of `:` looks at nothing. -/
theorem colonRestartsTheCollection : Obligations.ColonRestartsTheCollection :=
  fun _ => exec_feed_noResult rfl rfl

/-- Settles O10: no row but that of `:` acts in IDLE, and no byte but `:` selects that row. -/
theorem idleIgnoresEveryByteButColon : Obligations.IdleIgnoresEveryByteButColon := by
  intro s idle
  have ignored : ∀ i : Instr, isFeed i = true → i ≠ .feedColon →
      exec i s = .next { s.startEvent with out := { Outputs.quiet with rx := some .noResult } } :=
    fun i hi noColon => exec_feed_noResult hi (deframerCase_idle idle hi noColon s.config)
  exact ⟨fun b hb => ignored _ (isFeed_decodeByte b) (decodeByte_ne_feedColon hb), ignored⟩

/-- Settles O11: every digit row runs the digit case of the deframer. -/
theorem hexDigitIsCollected : Obligations.HexDigitIsCollected := by
  intro s i d hd collecting
  refine exec_feed_noResult (isFeed_of_digitOf hd) ?_
  rw [deframerCase_of_digitOf hd, onHexDigit_collecting collecting]

/-- Settles O12: the row of OTHER bytes, which every byte of that class selects. -/
theorem otherByteMarksTheLineBad : Obligations.OtherByteMarksTheLineBad :=
  fun _ _ collecting => ⟨decodeByte_of_other, exec_feed_noResult rfl (onOther_collecting collecting)⟩

/-- Settles O16: the operations that are no RX_BYTE keep the deframer, and RX_BYTE is one of the deframer's cases. -/
theorem decoderAndEngineAreIndependent : Obligations.DecoderAndEngineAreIndependent := by
  refine ⟨fun i s t unfed noReset h => ?_, fun i s s' t t' fed config rx h h' => ?_⟩
  · obtain ⟨-, -, -, keeps⟩ := exec_frame h
    exact keeps unfed noReset
  · rw [exec_feed fed] at h h'
    cases h
    cases h'
    rw [rxEvent_rx, rxEvent_rx, rxEvent_out_rx, rxEvent_out_rx, config, rx]
    exact ⟨rfl, rfl⟩

end Sys2Proof.Machine

/-! ## The verdict on a line (R126 to R128) -/

namespace Sys2Proof.Machine

/-! ### The bytes of the collected digits -/

/-- The value of byte `k` of the collected digits (R126). -/
def digitByte (nib : List Nibble) (k : Nat) : Nat := 16 * (nib.getD (2 * k) 0).toNat + (nib.getD (2 * k + 1) 0).toNat

theorem digitByte_lt (nib : List Nibble) (k : Nat) : digitByte nib k < 256 := by
  have high := (nib.getD (2 * k) 0).isLt
  have low := (nib.getD (2 * k + 1) 0).isLt
  unfold digitByte
  omega

/-- R126: byte `k` is assembled from the digits `2k` and `2k + 1`. -/
theorem nibbleBytes_eq_map : ∀ nib : List Nibble,
    nibbleBytes nib = (List.range (nib.length / 2)).map (fun k => BitVec.ofNat 8 (digitByte nib k))
  | [] => rfl
  | [_] => by simp [nibbleBytes]
  | hi :: lo :: rest => by
    have pairs : (hi :: lo :: rest).length / 2 = rest.length / 2 + 1 := Nat.add_div_right _ Nat.two_pos
    rw [nibbleBytes, nibbleBytes_eq_map rest, pairs, List.range_succ_eq_map, List.map_cons, List.map_map]
    rfl

theorem nibbleBytes_length (nib : List Nibble) : (nibbleBytes nib).length = nib.length / 2 := by
  simp [nibbleBytes_eq_map]

theorem nibbleBytes_getD_toNat {nib : List Nibble} {k : Nat} (hk : k < nib.length / 2) :
    ((nibbleBytes nib).getD k 0).toNat = digitByte nib k := by
  have lt := digitByte_lt nib k
  simp [nibbleBytes_eq_map, hk, Nat.mod_eq_of_lt lt]

theorem sumBytes_nibbleBytes (nib : List Nibble) :
    sumBytes (nibbleBytes nib) = ((List.range (nib.length / 2)).map (digitByte nib)).sum := by
  rw [sumBytes, nibbleBytes_eq_map, List.map_map]
  refine congrArg List.sum (List.map_congr_left fun k _ => ?_)
  exact Nat.mod_eq_of_lt (digitByte_lt nib k)

/-! ### The three verdicts -/

theorem validate_eq_malformedErr_iff (nib : List Nibble) (bad : Bool) :
    validate nib bad = .malformedErr ↔ bad = true ∨ nib.length % 2 = 1 ∨ nib.length / 2 < Config.minFrameBytes := by
  unfold validate
  split_ifs <;> simp_all

theorem validate_eq_checksumErr_iff (nib : List Nibble) (bad : Bool) :
    validate nib bad = .checksumErr ↔
      bad = false ∧ nib.length % 2 = 0 ∧ Config.minFrameBytes ≤ nib.length / 2 ∧
        sumBytes (nibbleBytes nib) % 256 ≠ 0 := by
  unfold validate
  split_ifs <;> simp_all

theorem validate_eq_frame_iff (nib : List Nibble) (bad : Bool) (f : Frame) :
    validate nib bad = .frame f ↔
      (bad = false ∧ nib.length % 2 = 0 ∧ Config.minFrameBytes ≤ nib.length / 2 ∧
          sumBytes (nibbleBytes nib) % 256 = 0) ∧
        frameFields (nibbleBytes nib) = f := by
  unfold validate
  split_ifs <;> simp_all

theorem validate_ne_noResult (nib : List Nibble) (bad : Bool) : validate nib bad ≠ .noResult := by
  unfold validate
  split_ifs <;> nofun

/-! ### The fields of a frame -/

theorem frameFields_address_toNat (bs : List Byte) :
    (frameFields bs).address.toNat = (bs.getD 1 0).toNat + 256 * (bs.getD 2 0).toNat := by
  have low := (bs.getD 1 0).isLt
  have high := (bs.getD 2 0).isLt
  rw [frameFields, BitVec.toNat_ofNat]
  omega

theorem frameFields_payload_length (bs : List Byte) : (frameFields bs).payload.length = bs.length - 5 := by
  simp [frameFields]
  omega

/-- R126: the payload is what stands between the header and the checksum. -/
theorem frameFields_payload_getD {bs : List Byte} {k : Nat} (hk : k < bs.length - 5) :
    (frameFields bs).payload.getD k 0 = bs.getD (4 + k) 0 := by
  have inPayload : k < bs.length - 4 - 1 := by omega
  have inFrame : 4 + k < bs.length := by omega
  simp [frameFields, inPayload, inFrame]

/-- Settles O14: the three verdicts by their causes, and the fields of a frame by the bytes of the digits. -/
theorem validateGivesTheVerdictOfTheRule : Obligations.ValidateGivesTheVerdictOfTheRule := by
  intro nib bad m byteAt sum
  have hsum : sumBytes (nibbleBytes nib) = sum := sumBytes_nibbleBytes nib
  have hbyte : ∀ {k}, k < m → ((nibbleBytes nib).getD k 0).toNat = byteAt k := nibbleBytes_getD_toNat
  have hlen : (frameFields (nibbleBytes nib)).payload.length = m - 5 := by
    rw [frameFields_payload_length, nibbleBytes_length]
  refine ⟨validate_eq_malformedErr_iff nib bad, hsum ▸ validate_eq_checksumErr_iff nib bad,
    fun good even long zero => ?_, validate_ne_noResult nib bad⟩
  refine ⟨frameFields (nibbleBytes nib), (validate_eq_frame_iff ..).2 ⟨⟨good, even, long, hsum ▸ zero⟩, rfl⟩,
    hbyte (by omega), ?address, hbyte (by omega), hlen, fun _ => by omega, fun k hk => ?payload⟩
  case address => rw [frameFields_address_toNat, hbyte (by omega), hbyte (by omega)]
  case payload => rw [frameFields_payload_getD (by rwa [nibbleBytes_length]), hbyte (by omega)]

end Sys2Proof.Machine

/-! ## Frames out of noise (R129, R130) -/

namespace Sys2Proof.Machine

/-! ### One byte, by its class -/

theorem feed_of_hexDigit {b : Byte} (hb : byteClass b = .hexDigit) (c : Config) (r : Deframer) :
    r.feed c b = r.onHexDigit c (hexVal b) := by
  simp [Deframer.feed, hb]

theorem feed_of_term {b : Byte} (hb : byteClass b = .term) (c : Config) (r : Deframer) : r.feed c b = r.onTerm := by
  simp [Deframer.feed, hb]

theorem feed_of_other {b : Byte} (hb : byteClass b = .other) (c : Config) (r : Deframer) : r.feed c b = r.onOther := by
  simp [Deframer.feed, hb]

/-- R122: every byte but `:` is noise outside a collection. -/
theorem feed_idle {b : Byte} {r : Deframer} (hr : r.state = .idle) (noColon : b ≠ 0x3A) (c : Config) :
    r.feed c b = (r, .noResult) := by
  cases hb : byteClass b with
  | colon => exact absurd ((byteClass_eq_colon_iff b).1 hb) noColon
  | hexDigit => rw [feed_of_hexDigit hb, onHexDigit_idle hr]
  | term => rw [feed_of_term hb, onTerm_idle hr]
  | other => rw [feed_of_other hb, onOther_idle hr]

/-- R120, R125: a frame comes from a terminator in COLLECTING. -/
theorem feed_eq_frame {c : Config} {b : Byte} {r : Deframer} {g : Frame} (h : (r.feed c b).2 = .frame g) :
    byteClass b = .term ∧ r.state = .collecting ∧ validate r.nib r.bad = .frame g := by
  cases hb : byteClass b with
  | colon => rw [(byteClass_eq_colon_iff b).1 hb] at h; cases h
  | hexDigit => rw [feed_of_hexDigit hb, onHexDigit_result] at h; cases h
  | other => rw [feed_of_other hb, onOther_result] at h; cases h
  | term =>
    rw [feed_of_term hb] at h
    cases hr : r.state with
    | idle => rw [onTerm_idle hr] at h; cases h
    | collecting => rw [onTerm_collecting hr] at h; exact ⟨rfl, rfl, h⟩

theorem mem_feedAll_cons {c : Config} {b : Byte} {bs : List Byte} {r : Deframer} {x : RxResult}
    (h : x ∈ (r.feedAll c (b :: bs)).1) : x = (r.feed c b).2 ∨ x ∈ ((r.feed c b).1.feedAll c bs).1 := by
  rw [Deframer.feedAll] at h
  dsimp only at h
  split at h
  · exact .inr h
  · exact List.mem_cons.1 h

theorem feedAll_cons_eq_nil {c : Config} {b : Byte} {bs : List Byte} {r r' : Deframer}
    (h : r.feedAll c (b :: bs) = ([], r')) : (r.feed c b).2 = .noResult ∧ (r.feed c b).1.feedAll c bs = ([], r') := by
  rw [Deframer.feedAll] at h
  split at h
  · next quiet => exact ⟨quiet, h⟩
  · cases h

/-! ### Where a collection and its frame come from -/

/-- The collection of `r`, if it is not malformed, holds the digits since the last `:` of the bytes seen. -/
def CollectsDigitsOf (seen : List Byte) (r : Deframer) : Prop :=
  r.state = .collecting → r.bad = false →
    ∃ before digits, seen = before ++ [0x3A] ++ digits ∧ (∀ b ∈ digits, byteClass b = .hexDigit) ∧
      r.nib = digits.map hexVal

/-- The bytes contain the line of a valid frame: what R130 asks of noise that yields a frame. -/
def ContainsFrameLine (z : List Byte) : Prop :=
  ∃ before digits terminator after,
    z = before ++ [0x3A] ++ digits ++ [terminator] ++ after ∧ (terminator = 0x0D ∨ terminator = 0x0A) ∧
    (∀ b ∈ digits, byteClass b = .hexDigit) ∧ 10 ≤ digits.length ∧ digits.length % 2 = 0 ∧
    sumBytes (nibbleBytes (digits.map hexVal)) % 256 = 0

theorem collectsDigitsOf_idle {r : Deframer} (idle : r.state = .idle) (seen : List Byte) : CollectsDigitsOf seen r :=
  fun collecting => absurd (idle.symm.trans collecting) nofun

theorem collectsDigitsOf_bad {r : Deframer} (bad : r.bad = true) (seen : List Byte) : CollectsDigitsOf seen r :=
  fun _ good => absurd (bad.symm.trans good) nofun

theorem collectsDigitsOf_colon {r : Deframer} (empty : r.nib = []) (seen : List Byte) :
    CollectsDigitsOf (seen ++ [0x3A]) r :=
  fun _ _ => ⟨seen, [], (List.append_nil _).symm, nofun, empty⟩

theorem CollectsDigitsOf.digit {seen : List Byte} {r : Deframer} {b : Byte} (h : CollectsDigitsOf seen r)
    (hb : byteClass b = .hexDigit) : CollectsDigitsOf (seen ++ [b]) { r with nib := r.nib ++ [hexVal b] } := by
  intro collecting good
  obtain ⟨before, digits, rfl, hex, nib⟩ := h collecting good
  refine ⟨before, digits ++ [b], List.append_assoc .., ?_, by simp [nib]⟩
  simpa [or_imp, forall_and, hb] using hex

theorem CollectsDigitsOf.feed {seen : List Byte} {r : Deframer} (h : CollectsDigitsOf seen r) (c : Config) (b : Byte) :
    CollectsDigitsOf (seen ++ [b]) (r.feed c b).1 := by
  by_cases colon : b = 0x3A
  · subst colon
    exact collectsDigitsOf_colon rfl seen
  cases hr : r.state with
  | idle =>
    rw [feed_idle hr colon]
    exact collectsDigitsOf_idle hr _
  | collecting =>
    cases hb : byteClass b with
    | colon => exact absurd ((byteClass_eq_colon_iff b).1 hb) colon
    | hexDigit =>
      rw [feed_of_hexDigit hb, onHexDigit_collecting hr]
      dsimp only
      split
      · exact h.digit hb
      · exact collectsDigitsOf_bad rfl _
    | term =>
      rw [feed_of_term hb, onTerm_collecting hr]
      exact collectsDigitsOf_idle rfl _
    | other =>
      rw [feed_of_other hb, onOther_collecting hr]
      exact collectsDigitsOf_bad rfl _

/-- R125: a valid line is the collection of a `:`, its digits and the terminator. -/
theorem CollectsDigitsOf.containsFrameLine {seen : List Byte} {r : Deframer} {b : Byte} {g : Frame}
    (h : CollectsDigitsOf seen r) (collecting : r.state = .collecting) (hb : byteClass b = .term)
    (valid : validate r.nib r.bad = .frame g) (after : List Byte) : ContainsFrameLine (seen ++ b :: after) := by
  obtain ⟨⟨good, even, long, zero⟩, -⟩ := (validate_eq_frame_iff ..).1 valid
  obtain ⟨before, digits, rfl, hex, nib⟩ := h collecting good
  rw [nib] at even long zero
  rw [List.length_map] at even long
  rw [Config.minFrameBytes, Config.hdrBytes] at long
  exact ⟨before, digits, b, after, by simp, (byteClass_eq_term_iff b).1 hb, hex, by omega, even, zero⟩

/-- Only a line among the bytes seen can be the source of a frame, whatever the bytes. -/
theorem CollectsDigitsOf.feedAll {c : Config} {z : List Byte} {g : Frame} :
    ∀ {seen : List Byte} {r : Deframer}, CollectsDigitsOf seen r → RxResult.frame g ∈ (r.feedAll c z).1 →
      ContainsFrameLine (seen ++ z) := by
  induction z with
  | nil => nofun
  | cons b bs ih =>
    intro seen r h hg
    rcases mem_feedAll_cons hg with now | later
    · obtain ⟨hb, collecting, valid⟩ := feed_eq_frame now.symm
      exact h.containsFrameLine collecting hb valid bs
    · rw [List.append_cons]
      exact ih (h.feed c b) later

/-- Settles O15: the `:` of the frame discards what the noise left, and the noise is followed from reset, where nothing
is collected. -/
theorem noiseBeforeAFrameDoesNotHideIt : Obligations.NoiseBeforeAFrameDoesNotHideIt := by
  refine fun c z f fits => ⟨?_, fun g hg => (collectsDigitsOf_idle rfl []).feedAll hg⟩
  rw [decodeWire, feedAll_append, feedAll_wireForm fits]
  rfl

end Sys2Proof.Machine

/-! ## A received frame in the engine (R120, R125, R160) -/

namespace Sys2Proof.Machine

/-! ### The engine reads nothing outside the engine -/

theorem tryIssue_congr {s t : State} (same : SameEngine s t) (config : t.config = s.config) :
    SameEngine (tryIssue s) (tryIssue t) := by
  have ⟨txBuf, queue, now⟩ := same
  unfold tryIssue wireBusy
  rw [txBuf, queue, config]
  split
  · exact same
  split
  · split
    · exact ⟨rfl, by simp [now], now⟩
    · exact same
  · exact same

theorem complete_congr {s t : State} (same : SameEngine s t) (config : t.config = s.config) (h : Transaction)
    (r : CplResult) (f : Option Frame) : SameEngine (complete h r f s) (complete h r f t) := by
  obtain ⟨txBuf, queue, now⟩ := same
  exact tryIssue_congr ⟨txBuf, congrArg List.tail queue, now⟩ config

/-- R160: what OnFrame does to the engine, and the completion it emits, depend on the engine and the parameters only. -/
theorem onFrame_congr {s t : State} (same : SameEngine s t) (config : t.config = s.config) (f : Frame) :
    SameEngine (onFrame f s) (onFrame f t) ∧
      (t.out.cpl = s.out.cpl → (onFrame f t).out.cpl = (onFrame f s).out.cpl) := by
  have ⟨_, queue, _⟩ := same
  have completes : ∀ h r, SameEngine (complete h r (some f) s) (complete h r (some f) t) ∧
      (t.out.cpl = s.out.cpl → (complete h r (some f) t).out.cpl = (complete h r (some f) s).out.cpl) :=
    fun h r => ⟨complete_congr same config h r _, fun _ => by simp⟩
  unfold onFrame
  rw [queue, config]
  split
  · exact ⟨same, id⟩
  split_ifs
  · exact ⟨same, id⟩
  · exact ⟨same, id⟩
  · exact completes ..
  · exact completes ..
  · exact completes ..
  · exact ⟨same, id⟩

/-! ### The terminator (R125) -/

/-- The state in which a terminator's verdict shows: the deframer back in IDLE, the engine not yet run. -/
def verdictShown (s : State) : State :=
  { s.startEvent with
    rx := Deframer.idle
    out := { Outputs.quiet with rx := some (validate s.rx.nib s.rx.bad) } }

theorem deframerCase_terminator {i : Instr} (hi : i = .feedCr ∨ i = .feedLf) (c : Config) :
    deframerCase c i = Deframer.onTerm := by
  rcases hi with rfl | rfl <;> rfl

theorem exec_terminator {i : Instr} {s : State} (hi : i = .feedCr ∨ i = .feedLf) (hs : s.rx.state = .collecting) :
    (∀ f, validate s.rx.nib s.rx.bad = .frame f → exec i s = .next (onFrame f (verdictShown s))) ∧
      ((∀ f, validate s.rx.nib s.rx.bad ≠ .frame f) → exec i s = .next (verdictShown s)) := by
  have fed : isFeed i = true := by rcases hi with rfl | rfl <;> rfl
  have verdict : deframerCase s.config i s.rx = (Deframer.idle, validate s.rx.nib s.rx.bad) := by
    rw [deframerCase_terminator hi, onTerm_collecting hs]
  rw [exec_feed fed]
  rcases rxEvent_cases (deframerCase s.config i) s with ⟨g, valid, e⟩ | ⟨invalid, e⟩ <;> rw [verdict] at *
  · refine ⟨fun f hf => ?_, fun none => absurd valid (none g)⟩
    cases valid.symm.trans hf
    rw [e, verdictShown, hf]
    rfl
  · exact ⟨fun f hf => absurd hf (invalid f), fun _ => by rw [e]; rfl⟩

/-- Settles O13: the terminator hands the frame to OnFrame, which does the same without the bytes that deliver it. -/
theorem terminatorValidatesAndReturnsToIdle : Obligations.TerminatorValidatesAndReturnsToIdle := by
  intro s i hi collecting shown
  obtain ⟨valid, invalid⟩ := exec_terminator hi collecting
  refine ⟨fun f hf => ⟨valid f hf, _, exec_decodeReceived f s, ?_⟩, invalid⟩
  obtain ⟨engine, cpl⟩ := onFrame_congr (s := s.startEvent) (t := shown) ⟨rfl, rfl, rfl⟩ rfl f
  exact ⟨engine, cpl rfl⟩

/-! ### Runs of received bytes -/

/-- What the ports show for a received byte without a result (R120). -/
def Outputs.noResult : Outputs := { Outputs.quiet with rx := some .noResult }

theorem runEvents_append {xs ys : List Instr} {s t : State} (h : runEvents xs s = .next t) :
    runEvents (xs ++ ys) s = runEvents ys t ∧ outputsOf (xs ++ ys) s = outputsOf xs s ++ outputsOf ys t := by
  induction xs generalizing s with
  | nil => cases h; exact ⟨rfl, rfl⟩
  | cons i is ih =>
    obtain ⟨u, hu⟩ := exec_total i s
    rw [runEvents_cons hu] at h
    obtain ⟨run, outs⟩ := ih h
    rw [List.cons_append, runEvents_cons hu, outputsOf_cons hu, outputsOf_cons hu, run, outs]
    exact ⟨rfl, rfl⟩

/-- The state after a received byte without a result: only the deframer has moved on. -/
def noResultShown (r : Deframer) (s : State) : State := { s.startEvent with rx := r, out := Outputs.noResult }

/-- Bytes that give the deframer no result act on the deframer alone, and each shows NONE. -/
theorem runEvents_noResult {bs : List Byte} {s : State} {r : Deframer} (silent : s.rx.feedAll s.config bs = ([], r)) :
    ∃ t, runEvents (bs.map decodeByte) s = .next t ∧ t.rx = r ∧ SameEngine s t ∧ SameSurroundings s t ∧
      outputsOf (bs.map decodeByte) s = List.replicate bs.length Outputs.noResult := by
  induction bs generalizing s with
  | nil => cases silent; exact ⟨s, rfl, rfl, ⟨rfl, rfl, rfl⟩, ⟨rfl, rfl⟩, rfl⟩
  | cons b bs ih =>
    obtain ⟨first, later⟩ := feedAll_cons_eq_nil silent
    have hb : exec (decodeByte b) s = .next (noResultShown (s.rx.feed s.config b).1 s) := by
      rw [exec_decodeByte, rxEvent_noFrame _ _ (by simp [first]), first]
      rfl
    obtain ⟨t, run, rx, engine, surroundings, outs⟩ := ih (s := noResultShown _ s) later
    exact ⟨t, (runEvents_cons hb _).trans run, rx, engine, surroundings, (outputsOf_cons hb _).trans (congrArg _ outs)⟩

/-- R77: the rows of a wire form are those of its `:` and digits, then CR and LF. -/
theorem wireForm_events (f : Frame) :
    (wireForm f).map decodeByte =
      (0x3A :: ((frameBytes f).flatMap byteNibbles).map hexChar).map decodeByte ++ [.feedCr, .feedLf] := by
  rw [wireForm_eq, List.map_append]
  rfl

/-- R125, R122: CR and LF behind the digits of a frame. The CR hands the frame to the engine, the LF does nothing. -/
theorem runEvents_terminators {s : State} {f : Frame} (hs : s.rx.state = .collecting)
    (valid : validate s.rx.nib s.rx.bad = .frame f) :
    let t := noResultShown Deframer.idle (onFrame f (verdictShown s))
    runEvents [.feedCr, .feedLf] s = .next t ∧
      outputsOf [.feedCr, .feedLf] s = [(onFrame f (verdictShown s)).out, Outputs.noResult] := by
  obtain ⟨frame, -⟩ := exec_terminator (.inl rfl) hs
  have hcr := frame f valid
  have hlf : exec .feedLf (onFrame f (verdictShown s)) =
      .next (noResultShown Deframer.idle (onFrame f (verdictShown s))) :=
    exec_feed_noResult rfl (by rw [onFrame_rx]; rfl)
  rw [runEvents_cons hcr, runEvents_cons hlf, outputsOf_cons hcr, outputsOf_cons hlf]
  exact ⟨rfl, rfl⟩

/-- Settles O17: the bytes before the CR act on the deframer alone, the CR runs OnFrame, the LF finds IDLE. -/
theorem frameBytesActAsTheFrame : Obligations.FrameBytesActAsTheFrame := by
  intro s f fits events
  obtain ⟨p, run, rx, engine, ⟨config, inputs⟩, outs⟩ := runEvents_noResult (feedAll_colon_digits fits s.rx)
  have valid : validate p.rx.nib p.rx.bad = .frame f := by rw [rx]; exact validate_frameNibbles f
  obtain ⟨runEnd, outsEnd⟩ := runEvents_terminators (s := p) (by rw [rx]) valid
  obtain ⟨runAll, outsAll⟩ := runEvents_append (ys := [.feedCr, .feedLf]) run
  rw [← wireForm_events] at runAll outsAll
  have length : (0x3A :: ((frameBytes f).flatMap byteNibbles).map hexChar).length = 2 * f.payload.length + 11 := by
    rw [List.length_cons, List.length_map, frameNibbles_length]
    omega
  have outsOf : outputsOf events s =
      List.replicate (2 * f.payload.length + 11) Outputs.noResult ++
        [(onFrame f (verdictShown p)).out, Outputs.noResult] := by
    rw [outsAll, outs, outsEnd, length]
  obtain ⟨asOperation, cpl⟩ := onFrame_congr (s := s.startEvent) (t := verdictShown p) engine config f
  obtain ⟨asOnFrame, -⟩ := onFrame_congr (s := s) (t := verdictShown p) engine config f
  refine ⟨_, _, runAll.trans runEnd, exec_decodeReceived f s, asOperation, rfl, asOnFrame, ?surroundings, ?rx, ?cpl,
    rfl⟩
  case surroundings => exact ⟨(onFrame_config f _).trans config, (onFrame_inputs f _).trans inputs⟩
  case rx =>
    rw [outsOf, List.map_append, List.map_replicate, List.map_cons, List.map_singleton, onFrame_out_rx, verdictShown,
      valid]
    rfl
  case cpl =>
    rw [outsOf, List.map_append, List.map_replicate, List.map_cons, List.map_singleton, cpl rfl]
    rfl

end Sys2Proof.Machine

/-! ## The issue procedure (R144) -/

namespace Sys2Proof.Machine

/-- Settles O20: a head that fits loads, each of the three obstacles leaves the state alone, and an issued head is not
issued again. -/
theorem tryIssueLoadsTheHeadWhenItCan : Obligations.TryIssueLoadsTheHeadWhenItCan := by
  refine fun s => ⟨fun h rest hq wants free hlen => ?load, fun blocked => ?blocked, tryIssue_idem s,
    tryIssue_nothingToIssue⟩
  case load =>
    have fits : (frameOf s.config h).payload.length ≤ s.config.maxPayload := (frameOf_payload_le _ h).trans hlen
    exact ⟨encodeFrame_of_le fits,
      tryIssue_load hq ((wantsToSend_iff h).2 wants) ((wireBusy_eq_false s).2 free) fits⟩
  case blocked =>
    rcases blocked with empty | ⟨h, rest, hq, waiting⟩ | busy
    · exact tryIssue_nil empty
    · exact tryIssue_settled hq (by simp [Transaction.wantsToSend, waiting])
    · exact tryIssue_busy ((wireBusy_iff s).2 busy)

end Sys2Proof.Machine

/-! ## Requests at the port (R140 to R143) -/

namespace Sys2Proof.Machine

/-! ### What each request does -/

theorem exec_reqGet_of_room {s : State} (room : s.queue.length < s.config.qDepth) (address : Addr) (tag : Tag) :
    exec (.reqGet address tag) s = .next (enqueue (getTransaction address tag) s.startEvent) := by
  have ready : reqReady s 1 = true := (reqReady_iff s 1).2 (.inl room)
  exact congrArg Host.Outcome.next (if_pos ready)

/-- R141: the data fits a frame, so the request is appended. -/
theorem exec_reqSet_of_room {s : State} (room : s.queue.length < s.config.qDepth) (address : Addr) {len : BitVec 6}
    (fits : len.toNat ≤ s.config.maxPayload) (data : List Byte) (tag : Tag) :
    exec (.reqSet address len data tag) s = .next (enqueue (setTransaction address len data tag) s.startEvent) := by
  have ready : reqReady s 2 = true := (reqReady_iff s 2).2 (.inl room)
  exact congrArg Host.Outcome.next ((if_pos ready).trans (if_neg (Nat.not_lt.2 fits)))

/-- R141, R201: the data fits no frame, so the request is refused. -/
theorem exec_reqSet_tooLong {s : State} (room : s.queue.length < s.config.qDepth) (address : Addr) {len : BitVec 6}
    (tooLong : s.config.maxPayload < len.toNat) (data : List Byte) (tag : Tag) :
    exec (.reqSet address len data tag) s = .next (s.startEvent.emitReq .encodeError) := by
  have ready : reqReady s 2 = true := (reqReady_iff s 2).2 (.inl room)
  exact congrArg Host.Outcome.next ((if_pos ready).trans (if_pos tooLong))

theorem exec_cancel (tag : Tag) (s : State) :
    exec (.cancel tag) s =
      .next (tryIssue ((s.startEvent.withQueue (withoutTag tag s.queue)).emitReq .accepted)) := rfl

/-- R144: a request accepted into an idle block is the head, and the wire is free for its frame. -/
theorem enqueue_idle {s : State} {x : Transaction} (empty : s.queue = []) (free : s.txBuf = [])
    (queued : x.state = .queued) (fits : x.len ≤ s.config.maxPayload) :
    enqueue x s = loadHead x [] (wireForm (frameOf s.config x)) ((s.withQueue [x]).emitReq .accepted) := by
  unfold enqueue
  rw [empty, List.nil_append]
  exact tryIssue_load rfl ((wantsToSend_iff x).2 (.inl queued)) ((wireBusy_eq_false _).2 free)
    ((frameOf_payload_le _ x).trans fits)

/-- Settles O23: the request is appended and issued, and the head of an idle block loads its GET frame. -/
theorem reqGetAppendsATransaction : Obligations.ReqGetAppendsATransaction := by
  intro s address tag room t
  have accepted := exec_reqGet_of_room room address tag
  refine ⟨accepted, fun empty free => ?_⟩
  have idle := enqueue_idle (s := s.startEvent) (x := getTransaction address tag) empty free rfl (Nat.zero_le _)
  exact accepted.trans (congrArg Host.Outcome.next idle)

/-- A SET keeps the bytes it uses and no others, so its frame carries them all (R105, R141). -/
theorem frameOf_setTransaction (c : Config) (address : Addr) (len : BitVec 6) (data : List Byte) (tag : Tag) :
    frameOf c (setTransaction address len data tag) = setFrame c address (usedData len data) := by
  have used : (usedData len data).take len.toNat = usedData len data := by rw [usedData, List.take_take, Nat.min_self]
  exact (frameOf_of_set rfl).trans (congrArg (setFrame c address) used)

/-- Settles O24: `len` against `MAX_PAYLOAD` decides between the refusal and the transaction, which an idle block
issues. -/
theorem reqSetAppendsATransactionOrIsRefused : Obligations.ReqSetAppendsATransactionOrIsRefused := by
  intro s address len data tag room t
  refine ⟨fun tooLong => exec_reqSet_tooLong room address tooLong data tag, fun fits => ?_⟩
  have accepted := exec_reqSet_of_room room address fits data tag
  refine ⟨accepted, fun empty free => ?_⟩
  have idle := enqueue_idle (s := s.startEvent) (x := setTransaction address len data tag) empty free rfl fits
  rw [frameOf_setTransaction] at idle
  exact accepted.trans (congrArg Host.Outcome.next idle)

/-! ### CANCEL -/

theorem withoutTag_tags (tag : Tag) (queue : List Transaction) :
    (withoutTag tag queue).map (·.tag) = (queue.map (·.tag)).filter (· != tag) :=
  (List.filter_map (f := Transaction.tag) (p := (· != tag))).symm

/-- Settles O25: what CANCEL leaves is read from the queue's tags, which the issue of the new head keeps. -/
theorem cancelDestroysTheTag : Obligations.CancelDestroysTheTag := by
  refine fun s tag => ⟨exec_cancel tag s, fun t h => ?_⟩
  have busy : s.txBuf ≠ [] → t.txBuf = s.txBuf := fun loaded => exec_txBuf_of_wireLeft_ne_nil h loaded
  rw [exec_cancel] at h
  cases h
  have tags := (tryIssue_tags ((s.startEvent.withQueue (withoutTag tag s.queue)).emitReq .accepted)).trans
    (withoutTag_tags tag s.queue)
  refine ⟨fun x hx => ?_, tags, by rw [tryIssue_out]; rfl, busy⟩
  have mem := List.mem_map_of_mem (f := Transaction.tag) hx
  rw [tags] at mem
  simpa using (List.mem_filter.1 mem).2

/-! ### A full queue (R142) -/

theorem not_reqReady_of_full {s : State} (full : s.config.qDepth ≤ s.queue.length) {op : BitVec 2}
    (noCancel : op ≠ 3) : ¬ reqReady s op = true :=
  fun ready => ((reqReady_iff s op).1 ready).elim (Nat.not_lt.2 full) noCancel

/-- Everything `holdRequest` can do with a schedule that starts with the requests held: leave it as it is, or move its
first word that is no request to the front. -/
theorem holdRequest_cases {held ws : List PortWord} (requests : ∀ r ∈ held, r.isRequest = true) :
    holdRequest held ws = held ++ ws ∨
      ∃ before w after, held ++ ws = before ++ w :: after ∧ (∀ r ∈ before, r.isRequest = true) ∧
        w.isRequest = false ∧ holdRequest held ws = w :: (before ++ after) := by
  induction ws generalizing held with
  | nil => exact .inl (List.append_nil held).symm
  | cons w ws ih =>
    cases hw : w.isRequest with
    | false => exact .inr ⟨held, w, ws, rfl, requests, hw, by simp [holdRequest, hw]⟩
    | true =>
      have longer : ∀ r ∈ held ++ [w], r.isRequest = true :=
        List.forall_mem_append.2 ⟨requests, List.forall_mem_singleton.2 hw⟩
      simpa [holdRequest, hw] using ih longer

/-- R142: holding a request loses no word of the schedule and reorders neither the requests nor the other events. -/
theorem holdRequest_keeps {held : List PortWord} (requests : ∀ r ∈ held, r.isRequest = true) (ws : List PortWord) :
    (holdRequest held ws).Perm (held ++ ws) ∧
      (holdRequest held ws).filter PortWord.isRequest = (held ++ ws).filter PortWord.isRequest ∧
      (holdRequest held ws).filter (fun w => !w.isRequest) = (held ++ ws).filter (fun w => !w.isRequest) := by
  rcases holdRequest_cases (ws := ws) requests with e | ⟨before, w, after, parts, requests, hw, e⟩ <;> rw [e]
  · exact ⟨.refl _, rfl, rfl⟩
  have noOther : before.filter (fun w => !w.isRequest) = [] := by simpa [List.filter_eq_nil_iff] using requests
  rw [parts]
  exact ⟨List.perm_middle.symm, by simp [hw], by simp [hw, noOther]⟩

/-- Settles O27: with the port not ready each request is only a new event, and the step holds it in the schedule. -/
theorem requestWaitsWhileTheQueueIsFull : Obligations.RequestWaitsWhileTheQueueIsFull := by
  intro s full
  refine ⟨congrArg Host.Outcome.next (if_neg (not_reqReady_of_full full (by decide))),
    fun _ _ => congrArg Host.Outcome.next (if_neg (not_reqReady_of_full full (by decide))),
    fun _ _ _ _ => congrArg Host.Outcome.next (if_neg (not_reqReady_of_full full (by decide))),
    fun op addr len data tag rest hc noCancel hw => ?_⟩
  have held : notTaken s (.req op addr len data tag) = true := by simp [notTaken, not_reqReady_of_full full noCancel]
  rw [hw]
  exact ⟨_, step_of_notTaken hc hw held, rfl, rfl, ⟨rfl, rfl, rfl⟩, rfl,
    holdRequest_keeps (List.forall_mem_singleton.2 rfl) rest⟩

end Sys2Proof.Machine

/-! ## The life of a Transaction (R170) -/

namespace Sys2Proof.Machine

/-- R144, as the table of R170 sees it: the issue procedure starts the head's attempt or does nothing. -/
theorem tryIssue_issued {i : Instr} {s u : State} (wire : u.txBuf = wireLeft i s) :
    Issued i s u.queue (tryIssue u) := by
  rcases tryIssue_cases u with e | ⟨h, rest, hq, wants, free, -, e⟩ <;> rw [e]
  · exact .inl ⟨rfl, wire⟩
  · exact .inr ⟨h, rest, hq, wants, wire ▸ (wireBusy_eq_false u).1 free, rfl, rfl⟩

/-- Settles O43: an operation leaves the engine alone, or changes the queue by a row of the table and issues. -/
theorem transactionsMoveOnlyAsTheTableSays : Obligations.TransactionsMoveOnlyAsTheTableSays := by
  intro i s t h
  rcases exec_engineMoves h with ⟨⟨tx, queue, -⟩, wire, quiet⟩ | ⟨u, rfl, change, wire⟩
  · exact ⟨s.queue, quiet ▸ .keep, .inl ⟨queue, tx.trans wire.symm⟩⟩
  · exact ⟨u.queue, change, tryIssue_issued wire⟩

end Sys2Proof.Machine

/-! ## Responses (R160 to R165, R169) -/

namespace Sys2Proof.Machine

/-! ### What OnFrame does with a frame -/

/-- What a response kind makes of the transaction it matches (R162 to R164); no other frame is a response (R165). -/
def responseResult (c : Config) (cmd : Byte) : Option CplResult :=
  if cmd = c.cmdAck then some .ok
  else if cmd = c.cmdNak then some .rejected
  else if cmd = c.cmdErr then some .rejected
  else none

theorem responseResult_ack (c : Config) : responseResult c c.cmdAck = some .ok := if_pos rfl

/-- R232: distinct codes tell the negative responses from an ACK. -/
theorem responseResult_nak {c : Config} (codes : c.CodesDistinct) : responseResult c c.cmdNak = some .rejected := by
  have noAck : c.cmdNak ≠ c.cmdAck := by simp at codes; tauto
  rw [responseResult, if_neg noAck, if_pos rfl]

theorem responseResult_err {c : Config} (codes : c.CodesDistinct) : responseResult c c.cmdErr = some .rejected := by
  obtain ⟨noAck, noNak⟩ : c.cmdErr ≠ c.cmdAck ∧ c.cmdErr ≠ c.cmdNak := by simp at codes; tauto
  rw [responseResult, if_neg noAck, if_neg noNak, if_pos rfl]

theorem responseResult_eq_none {c : Config} {cmd : Byte} (noAck : cmd ≠ c.cmdAck) (noNak : cmd ≠ c.cmdNak)
    (noErr : cmd ≠ c.cmdErr) : responseResult c cmd = none := by
  rw [responseResult, if_neg noAck, if_neg noNak, if_neg noErr]

/-- R232: the block's own request frames, come back, are no responses. -/
theorem responseResult_request {c : Config} (codes : c.CodesDistinct) {cmd : Byte}
    (request : cmd = c.cmdGet ∨ cmd = c.cmdSet) : responseResult c cmd = none := by
  simp at codes
  rcases request with rfl | rfl <;> apply responseResult_eq_none <;> tauto

/-- R160: frame `f` finds an outstanding head with its address. -/
def Matches (f : Frame) (s : State) : Prop :=
  ∃ h rest, s.queue = h :: rest ∧ h.state ≠ .queued ∧ f.address = h.address

/-- R161. -/
theorem onFrame_of_not_matches {f : Frame} {s : State} (unmatched : ¬ Matches f s) : onFrame f s = s := by
  rcases onFrame_cases f s with e | ⟨h, rest, hq, sent, address, -⟩
  · exact e
  · exact absurd ⟨h, rest, hq, sent, address⟩ unmatched

/-- R162 to R165: a matching frame completes the head with the result of its kind, or has none and is dropped. -/
theorem onFrame_of_matches {f : Frame} {s : State} {h : Transaction} {rest : List Transaction}
    (hq : s.queue = h :: rest) (sent : h.state ≠ .queued) (address : f.address = h.address) :
    onFrame f s = (responseResult s.config f.cmd).elim s (fun r => complete h r (some f) s) := by
  simp only [onFrame, hq, if_neg sent, if_neg (not_not.2 address), responseResult]
  split_ifs <;> rfl

/-- R165: what is no response is dropped, matching or not. -/
theorem onFrame_of_no_response {f : Frame} {s : State} (none : responseResult s.config f.cmd = none) :
    onFrame f s = s := by
  by_cases matched : Matches f s
  · obtain ⟨h, rest, hq, sent, address⟩ := matched
    rw [onFrame_of_matches hq sent address, none]
    rfl
  · exact onFrame_of_not_matches matched

/-- R169 for the response `f`: the head's completion shows, the head is gone, and the next is issued. -/
theorem onFrame_completes {f : Frame} {s : State} {h : Transaction} {rest : List Transaction} {r : CplResult}
    (hq : s.queue = h :: rest) (outstanding : h.state = .waiting ∨ h.state = .retryPending)
    (address : f.address = h.address) (response : responseResult s.config f.cmd = some r) :
    onFrame f s = tryIssue ((s.emitCpl (completionOf h r (some f))).withQueue rest) := by
  have sent : h.state ≠ .queued := by rcases outstanding with e | e <;> rw [e] <;> nofun
  rw [onFrame_of_matches hq sent address, response, Option.elim_some, complete_eq, hq, List.tail_cons]

/-! ### The response rows -/

/-- Settles O28: whether a frame matches does not depend on its kind, and none of the four rows matches. -/
theorem unmatchedFrameIsDropped : Obligations.UnmatchedFrameIsDropped := by
  intro s address flags payload other
  have dropped (cmd : Byte) : onFrame ⟨cmd, address, flags, payload⟩ s.startEvent = s.startEvent :=
    onFrame_of_not_matches fun ⟨h, rest, hq, sent, same⟩ => other h rest hq sent same
  exact ⟨congrArg Host.Outcome.next (dropped _), congrArg Host.Outcome.next (dropped _),
    congrArg Host.Outcome.next (dropped _), fun cmd => congrArg Host.Outcome.next (dropped cmd)⟩

/-- Settles O29: the result of the kind ACK is OK. -/
theorem ackCompletesTheHead : Obligations.AckCompletesTheHead := by
  intro s h rest flags payload hq outstanding
  have completes := onFrame_completes (f := ⟨s.config.cmdAck, h.address, flags, payload⟩) (s := s.startEvent) hq
    outstanding rfl (responseResult_ack s.config)
  exact congrArg Host.Outcome.next completes

/-- Settles O30: the result of the kind NAK is REJECTED, in either outstanding state. -/
theorem nakRejectsTheHead : Obligations.NakRejectsTheHead := by
  intro s h rest flags payload codes hq outstanding
  have completes := onFrame_completes (f := ⟨s.config.cmdNak, h.address, flags, payload⟩) (s := s.startEvent) hq
    outstanding rfl (responseResult_nak codes)
  exact congrArg Host.Outcome.next completes

/-- Settles O31: the result of the kind ERR is REJECTED too, and the completion carries the kind. -/
theorem errRejectsTheHead : Obligations.ErrRejectsTheHead := by
  intro s h rest flags payload codes hq outstanding
  have completes := onFrame_completes (f := ⟨s.config.cmdErr, h.address, flags, payload⟩) (s := s.startEvent) hq
    outstanding rfl (responseResult_err codes)
  exact congrArg Host.Outcome.next completes

/-- Settles O32: neither the kinds that are no response code nor the block's own request kinds have a result. -/
theorem otherFrameIsDropped : Obligations.OtherFrameIsDropped := by
  intro s cmd address flags payload noAck noNak noErr
  have dropped : onFrame ⟨cmd, address, flags, payload⟩ s.startEvent = s.startEvent :=
    onFrame_of_no_response (responseResult_eq_none noAck noNak noErr)
  exact ⟨congrArg Host.Outcome.next dropped,
    fun codes f request => onFrame_of_no_response (responseResult_request codes request)⟩

/-! ### What matching does not read (R160) -/

/-- The response's fields go into its completion only: the engine and the rest of the completion do not see them. -/
theorem complete_response_irrelevant (h : Transaction) (r : CplResult) (f g : Frame) (s : State) :
    SameEngine (complete h r (some f) s) (complete h r (some g) s) ∧
      (complete h r (some f) s).out.cpl.map (fun c => (c.tag, c.result)) =
        (complete h r (some g) s).out.cpl.map (fun c => (c.tag, c.result)) := by
  refine ⟨?_, by simp [completionOf]⟩
  rw [complete_eq, complete_eq]
  exact tryIssue_congr ⟨rfl, rfl, rfl⟩ rfl

/-- R169: the completed head's kind is in neither its completion nor the queue it leaves. -/
theorem complete_kind_irrelevant {s : State} {h : Transaction} {rest : List Transaction} (hq : s.queue = h :: rest)
    (op : TxnOp) (r : CplResult) (f : Frame) :
    complete { h with op := op } r (some f) { s with queue := { h with op := op } :: rest } =
      complete h r (some f) s := by
  rw [complete_eq, complete_eq, hq]
  rfl

/-- R160: frames of one kind and address match alike and have one result. -/
theorem onFrame_response_irrelevant {f g : Frame} (cmd : f.cmd = g.cmd) (address : f.address = g.address) (s : State) :
    SameEngine (onFrame f s) (onFrame g s) ∧
      (onFrame f s).out.cpl.map (fun c => (c.tag, c.result)) =
        (onFrame g s).out.cpl.map (fun c => (c.tag, c.result)) := by
  by_cases matched : Matches f s
  · obtain ⟨h, rest, hq, sent, same⟩ := matched
    rw [onFrame_of_matches hq sent same, onFrame_of_matches hq sent (address ▸ same), ← cmd]
    cases responseResult s.config f.cmd with
    | none => exact ⟨⟨rfl, rfl, rfl⟩, rfl⟩
    | some r => exact complete_response_irrelevant h r f g s
  · have unmatched : ¬ Matches g s := by rwa [Matches, ← address]
    rw [onFrame_of_not_matches matched, onFrame_of_not_matches unmatched]
    exact ⟨⟨rfl, rfl, rfl⟩, rfl⟩

/-- The head's kind has no part in matching: the frame is dropped for both kinds or completes both alike. -/
theorem onFrame_kind_irrelevant {s : State} {h : Transaction} {rest : List Transaction} (hq : s.queue = h :: rest)
    (f : Frame) (op : TxnOp) :
    let s' : State := { s with queue := { h with op := op } :: rest }
    (onFrame f s = s ∧ onFrame f s' = s') ∨ onFrame f s' = onFrame f s := by
  intro s'
  by_cases matched : h.state ≠ .queued ∧ f.address = h.address
  · obtain ⟨sent, same⟩ := matched
    rw [onFrame_of_matches hq sent same, onFrame_of_matches (s := s') rfl sent same]
    cases responseResult s.config f.cmd with
    | none => exact .inl ⟨rfl, rfl⟩
    | some r => exact .inr (complete_kind_irrelevant hq op r f)
  · refine .inl ⟨onFrame_of_not_matches ?_, onFrame_of_not_matches ?_⟩ <;> rintro ⟨x, xs, hx, sent, same⟩
    · cases hq.symm.trans hx
      exact matched ⟨sent, same⟩
    · cases hx
      exact matched ⟨sent, same⟩

/-- Settles O33: neither the response's fields nor the head's kind decide what OnFrame does. -/
theorem matchingIgnoresFlagsPayloadAndKind : Obligations.MatchingIgnoresFlagsPayloadAndKind := by
  intro s f g cmd address
  obtain ⟨engine, completion⟩ := onFrame_response_irrelevant cmd address s
  refine ⟨engine, completion, fun h rest op hq => ?_⟩
  have moves := onFrame_kind_irrelevant hq f op
  refine ⟨?_, moves⟩
  rcases moves with ⟨dropped, dropped'⟩ | same
  · rw [dropped, dropped']
  · rw [same]

end Sys2Proof.Machine

/-! ## Timeouts (R166 to R169) -/

namespace Sys2Proof.Machine

/-! ### The event TICK -/

theorem exec_tick (s : State) :
    exec .tick s = .next (tryIssue (checkTimer (s.startEvent.withNow (nextTime s)))) := rfl

/-- R166: the test fails, so time advances and the issue procedure runs. -/
theorem exec_tick_of_not_timedOut {s : State}
    (early : ∀ h rest, s.queue = h :: rest → timedOut s.config (nextTime s) h = false) :
    exec .tick s = .next (tryIssue (s.startEvent.withNow (nextTime s))) := by
  rcases checkTimer_cases (s.startEvent.withNow (nextTime s)) with e | ⟨h, rest, hq, late, -⟩
  · rw [exec_tick, e]
  · cases late.symm.trans (early h rest hq)

/-- What a timeout with attempts left gives to the issue procedure (R167). -/
def awaitingRetry (h : Transaction) (rest : List Transaction) (s : State) : State :=
  (s.startEvent.withNow (nextTime s)).withQueue
    ({ h with retryCount := h.retryCount + 1, state := .retryPending } :: rest)

theorem exec_tick_retry {s : State} {h : Transaction} {rest : List Transaction} (hq : s.queue = h :: rest)
    (late : timedOut s.config (nextTime s) h = true) (left : h.retryCount + 1 < s.config.maxAttempts) :
    exec .tick s = .next (tryIssue (awaitingRetry h rest s)) := by
  have another : attemptsLeft s.config h = true := decide_eq_true left
  simp [exec_tick, checkTimer, hq, late, headTimeout, another, awaitingRetry]

/-- R168: a timeout with no attempt left; `complete` has issued the next already, and TICK's own issue adds nothing. -/
theorem exec_tick_expire {s : State} {h : Transaction} {rest : List Transaction} (hq : s.queue = h :: rest)
    (late : timedOut s.config (nextTime s) h = true) (spent : s.config.maxAttempts ≤ h.retryCount + 1) :
    exec .tick s =
      .next (tryIssue
        (((s.startEvent.withNow (nextTime s)).emitCpl (completionOf h .timeout none)).withQueue rest)) := by
  have noOther : attemptsLeft s.config h = false := decide_eq_false (Nat.not_lt.2 spent)
  simp [exec_tick, checkTimer, hq, late, headTimeout, noOther, complete_eq, tryIssue_idem]

/-- R167: with the wire free the timed-out head starts its next attempt on the tick, with the same frame (R105). -/
theorem exec_tick_resend {s : State} {h : Transaction} {rest : List Transaction} (hq : s.queue = h :: rest)
    (late : timedOut s.config (nextTime s) h = true) (left : h.retryCount + 1 < s.config.maxAttempts)
    (free : s.txBuf = []) (fits : h.len ≤ s.config.maxPayload) :
    exec .tick s =
      .next (loadHead { h with retryCount := h.retryCount + 1 } rest (wireForm (frameOf s.config h))
        (s.startEvent.withNow (nextTime s))) := by
  have load := tryIssue_load (s := awaitingRetry h rest s) rfl rfl ((wireBusy_eq_false _).2 free)
    ((frameOf_payload_le _ _).trans fits)
  exact (exec_tick_retry hq late left).trans (congrArg Host.Outcome.next load)

/-- Settles O34: the hypothesis is that the timer test fails. -/
theorem tickAdvancesTime : Obligations.TickAdvancesTime := by
  intro s early
  refine exec_tick_of_not_timedOut fun h rest hq => Bool.eq_false_iff.2 fun late => ?_
  obtain ⟨waiting, reached⟩ := (timedOut_iff ..).1 late
  exact absurd (early h rest hq waiting) (Nat.not_lt.2 reached)

/-- Settles O35: the head awaits its retry, which a busy wire holds back and a free one takes at once. -/
theorem timeoutWithAttemptsLeftRetries : Obligations.TimeoutWithAttemptsLeftRetries := by
  intro s h rest hq waiting reached left now
  have late : timedOut s.config (nextTime s) h = true := (timedOut_iff ..).2 ⟨waiting, reached⟩
  refine ⟨fun busy => ?_, fun free fits => exec_tick_resend hq late left free fits⟩
  have held := tryIssue_busy (s := awaitingRetry h rest s) ((wireBusy_iff _).2 busy)
  exact (exec_tick_retry hq late left).trans (congrArg Host.Outcome.next held)

/-- Settles O36: the head is completed, and the issue of the next finds what is still in the transmitter. -/
theorem lastTimeoutCompletesTheHead : Obligations.LastTimeoutCompletesTheHead := by
  intro s h rest hq waiting reached spent
  have late : timedOut s.config (nextTime s) h = true := (timedOut_iff ..).2 ⟨waiting, reached⟩
  exact ⟨exec_tick_expire hq late spent, fun t busy run => exec_txBuf_of_wireLeft_ne_nil run busy⟩

/-! ### An attempt that waits for its timeout (R166) -/

/-- The head waits for a response, its timer `k` ticks past the loading of its frame and short of the timeout, and the
timeout comes within the range of the timer (R30). -/
structure Waits (s : State) (h : Transaction) (rest : List Transaction) (k : Nat) : Prop where
  queue   : s.queue = h :: rest
  waiting : h.state = .waiting
  issued  : h.issueTime < 2 ^ s.config.wTime
  time    : s.now = (h.issueTime + k) % 2 ^ s.config.wTime
  early   : k < s.config.timeoutTicks
  short   : s.config.timeoutTicks < 2 ^ s.config.wTime

section
variable {s : State} {h : Transaction} {rest : List Transaction} {k : Nat}

/-- An attempt whose frame has just been loaded, with a threshold that the timer can count to. -/
theorem Waits.of_issued (hq : s.queue = h :: rest) (waiting : h.state = .waiting) (issued : h.issueTime = s.now)
    (inRange : s.now < 2 ^ s.config.wTime) (valid : s.config.Valid)
    (short : s.config.timeoutTicks < 2 ^ s.config.wTime) : Waits s h rest 0 := by
  obtain ⟨-, -, -, -, two, -⟩ := valid
  exact ⟨hq, waiting, issued ▸ inRange, by rw [issued, Nat.add_zero, Nat.mod_eq_of_lt inRange], by omega, short⟩

theorem Waits.nextTime_eq (hs : Waits s h rest k) : nextTime s = (h.issueTime + (k + 1)) % 2 ^ s.config.wTime := by
  rw [nextTime, hs.time, Nat.mod_add_mod, Nat.add_assoc]

/-- R166: the test of the next tick compares `k + 1` ticks with the threshold. -/
theorem Waits.timedOut_iff (hs : Waits s h rest k) :
    timedOut s.config (nextTime s) h = true ↔ s.config.timeoutTicks ≤ k + 1 := by
  have inRange : k + 1 < 2 ^ s.config.wTime := Nat.lt_of_le_of_lt hs.early hs.short
  rw [Machine.timedOut_iff, hs.nextTime_eq, elapsed_wrap _ hs.issued inRange, and_iff_right hs.waiting]

theorem Waits.tryIssue_eq (hs : Waits s h rest k) : tryIssue s = s :=
  tryIssue_settled hs.queue (by simp [Transaction.wantsToSend, hs.waiting])

theorem Waits.tick (hs : Waits s h rest k) (early : k + 1 < s.config.timeoutTicks) :
    exec .tick s = .next (s.startEvent.withNow (nextTime s)) ∧
      Waits (s.startEvent.withNow (nextTime s)) h rest (k + 1) := by
  have waits : Waits (s.startEvent.withNow (nextTime s)) h rest (k + 1) :=
    ⟨hs.queue, hs.waiting, hs.issued, hs.nextTime_eq, early, hs.short⟩
  refine ⟨?_, waits⟩
  rw [exec_tick_of_not_timedOut, waits.tryIssue_eq]
  intro x xs hx
  cases hs.queue.symm.trans hx
  exact Bool.eq_false_iff.2 fun late => absurd early (Nat.not_lt.2 (hs.timedOut_iff.1 late))

theorem Waits.txByte (hs : Waits s h rest k) {b : Byte} {w : List Byte} (loaded : s.txBuf = b :: w) :
    exec .txByte s = .next ((s.startEvent.emitTx b).withTx w) ∧
      Waits ((s.startEvent.emitTx b).withTx w) h rest k := by
  have waits : Waits ((s.startEvent.emitTx b).withTx w) h rest k :=
    ⟨hs.queue, hs.waiting, hs.issued, hs.time, hs.early, hs.short⟩
  exact ⟨by rw [exec_txByte_cons loaded, waits.tryIssue_eq], waits⟩

end

/-! ### Runs of TICK and TX_BYTE -/

/-- A run in which no response and no request comes: time moves on by `ticks`, the bytes `sent` leave the transmitter,
and the completions `cpls` show. -/
structure SilentRun (events : List Instr) (s t : State) (ticks : Nat) (sent : List Byte) (cpls : List Completion) :
    Prop where
  run    : runEvents events s = .next t
  rx     : t.rx = s.rx
  config : t.config = s.config
  now    : t.now = (s.now + ticks) % 2 ^ s.config.wTime
  sent   : (outputsOf events s).filterMap (·.txData) = sent
  cpls   : (outputsOf events s).filterMap (·.cpl) = cpls

theorem SilentRun.nil {s : State} (inRange : s.now < 2 ^ s.config.wTime) : SilentRun [] s s 0 [] [] :=
  ⟨rfl, rfl, rfl, (Nat.mod_eq_of_lt inRange).symm, rfl, rfl⟩

theorem SilentRun.append {xs ys : List Instr} {s t u : State} {n m : Nat} {ws vs : List Byte} {cs ds : List Completion}
    (first : SilentRun xs s t n ws cs) (second : SilentRun ys t u m vs ds) :
    SilentRun (xs ++ ys) s u (n + m) (ws ++ vs) (cs ++ ds) := by
  obtain ⟨run, outs⟩ := runEvents_append (ys := ys) first.run
  refine ⟨run.trans second.run, second.rx.trans first.rx, second.config.trans first.config, ?_, ?_, ?_⟩
  · rw [second.now, first.config, first.now, Nat.mod_add_mod, Nat.add_assoc]
  · rw [outs, List.filterMap_append, first.sent, second.sent]
  · rw [outs, List.filterMap_append, first.cpls, second.cpls]

theorem SilentRun.tick {s t : State} (run : exec .tick s = .next t) (quiet : t.out.txData = none) :
    SilentRun [.tick] s t 1 [] t.out.cpl.toList := by
  obtain ⟨config, -, now, rx⟩ := exec_frame run
  have outs : outputsOf [.tick] s = [t.out] := outputsOf_cons run []
  refine ⟨runEvents_cons run [], rx rfl nofun, config, now, ?_, ?_⟩ <;> rw [outs]
  · simp [quiet]
  · cases h : t.out.cpl <;> simp [h]

theorem SilentRun.txByte {s t : State} {b : Byte} (run : exec .txByte s = .next t)
    (inRange : s.now < 2 ^ s.config.wTime) (shown : t.out = { Outputs.quiet with txData := some b }) :
    SilentRun [.txByte] s t 0 [b] [] := by
  obtain ⟨config, -, now, rx⟩ := exec_frame run
  have outs : outputsOf [.txByte] s = [t.out] := outputsOf_cons run []
  refine ⟨runEvents_cons run [], rx rfl nofun, config, ?_, ?_, ?_⟩
  · rw [now, Nat.add_zero, Nat.mod_eq_of_lt inRange]
    rfl
  · rw [outs, shown]
    rfl
  · rw [outs, shown]
    rfl

/-- What an event that emits at most a byte shows. -/
def ByteAtMost (o : Outputs) : Prop := o = { Outputs.quiet with txData := o.txData }

/-- Short of the timeout, ticks and bytes in any order leave the queue alone: time moves on, the transmitter drains. -/
theorem Waits.run {events : List Instr} {s : State} {h : Transaction} {rest : List Transaction} {k : Nat}
    (hs : Waits s h rest k) (only : ∀ i ∈ events, i = .tick ∨ i = .txByte)
    (early : k + events.count .tick < s.config.timeoutTicks) (enough : events.count .txByte ≤ s.txBuf.length) :
    ∃ t, Waits t h rest (k + events.count .tick) ∧
      SilentRun events s t (events.count .tick) (s.txBuf.take (events.count .txByte)) [] ∧
      t.txBuf = s.txBuf.drop (events.count .txByte) ∧ ∀ o ∈ outputsOf events s, ByteAtMost o := by
  have inRange : s.now < 2 ^ s.config.wTime := hs.time ▸ Nat.mod_lt _ (Nat.two_pow_pos _)
  induction events generalizing s k with
  | nil => exact ⟨s, hs, .nil inRange, rfl, nofun⟩
  | cons i is ih =>
    obtain ⟨first, others⟩ := List.forall_mem_cons.1 only
    rcases first with rfl | rfl
    · have noByte : Instr.tick ≠ .txByte := nofun
      rw [List.count_cons_self] at early ⊢
      rw [List.count_cons_of_ne noByte] at enough ⊢
      have ticksLeft : k + 1 + is.count .tick < s.config.timeoutTicks := by omega
      obtain ⟨run, waits⟩ := hs.tick (by omega)
      obtain ⟨t, waits, later, tx, outs⟩ := ih waits others ticksLeft enough (Nat.mod_lt _ (Nat.two_pow_pos _))
      rw [Nat.add_right_comm, Nat.add_assoc] at waits
      refine ⟨t, waits, Nat.add_comm .. ▸ (SilentRun.tick run rfl).append later, tx, ?_⟩
      rw [outputsOf_cons run]
      exact List.forall_mem_cons.2 ⟨rfl, outs⟩
    · have noTick : Instr.txByte ≠ .tick := nofun
      rw [List.count_cons_of_ne noTick] at early ⊢
      rw [List.count_cons_self] at enough ⊢
      cases loaded : s.txBuf with
      | nil => simp [loaded] at enough
      | cons b w =>
        obtain ⟨run, waits⟩ := hs.txByte loaded
        obtain ⟨t, waits, later, tx, outs⟩ := ih waits others early (by simpa [loaded] using enough) inRange
        refine ⟨t, waits, Nat.zero_add (is.count .tick) ▸ (SilentRun.txByte run inRange rfl).append later, tx, ?_⟩
        rw [outputsOf_cons run]
        exact List.forall_mem_cons.2 ⟨rfl, outs⟩

/-! ### The threshold tick -/

/-- R166: the tick that makes the threshold full is the timeout. -/
theorem Waits.timedOut_of_last {s : State} {h : Transaction} {rest : List Transaction} {k : Nat} (hs : Waits s h rest k)
    (last : k + 1 = s.config.timeoutTicks) : timedOut s.config (nextTime s) h = true :=
  hs.timedOut_iff.2 last.ge

/-- Short of the timeout, ticks alone emit nothing. -/
theorem Waits.ticks {s : State} {h : Transaction} {rest : List Transaction} (hs : Waits s h rest 0) {n : Nat}
    (hn : n < s.config.timeoutTicks) :
    ∃ t, Waits t h rest n ∧ SilentRun (List.replicate n .tick) s t n [] [] ∧ t.txBuf = s.txBuf ∧
      ∀ o ∈ outputsOf (List.replicate n .tick) s, o = Outputs.quiet := by
  have nTicks : (List.replicate n Instr.tick).count .tick = n := List.count_replicate_self
  have nBytes : (List.replicate n Instr.tick).count .txByte = 0 := by simp [List.count_replicate]
  obtain ⟨t, waits, run, tx, outs⟩ := hs.run (events := List.replicate n .tick)
    (fun i hi => .inl (List.eq_of_mem_replicate hi)) (by omega) (by omega)
  rw [nTicks, Nat.zero_add] at waits
  rw [nTicks, nBytes] at run
  rw [nBytes] at tx
  refine ⟨t, waits, run, tx, fun o ho => ?_⟩
  have noByte : o.txData = none := List.filterMap_eq_nil_iff.1 run.sent o ho
  rw [outs o ho, noByte]
  rfl

theorem tryIssue_queue_tail (s : State) : (tryIssue s).queue.tail = s.queue.tail := by
  rcases tryIssue_cases s with e | ⟨h, rest, hq, -, -, -, e⟩ <;> rw [e]
  rw [loadHead_queue, hq, List.tail_cons, List.tail_cons]

/-- Settles O38: the ticks short of the threshold leave the attempt waiting, so the next one times it out. -/
theorem attemptTimesOutOnTheThresholdTick : Obligations.AttemptTimesOutOnTheThresholdTick := by
  intro s h rest valid hq waiting issued inRange short
  have waits : Waits s h rest 0 := .of_issued hq waiting issued inRange valid short
  refine ⟨fun n hn => ?left, ?timeout⟩
  case left =>
    obtain ⟨t, waits, run, tx, outs⟩ := waits.ticks hn
    exact ⟨t, run.run, waits.queue.trans hq.symm, tx, run.rx, run.now, outs⟩
  case timeout =>
    obtain ⟨n, last⟩ := Nat.exists_eq_add_one.2 waits.early
    obtain ⟨t, waits, run, -⟩ := waits.ticks (n := n) (by omega)
    have late := waits.timedOut_of_last (run.config ▸ last.symm)
    obtain ⟨u, tick⟩ := exec_total .tick t
    rw [last, List.replicate_succ', (runEvents_append run.run).1, runEvents_cons tick, ← run.config]
    refine ⟨u, rfl, fun left => ?retried, fun spent => ?expired⟩
    case retried =>
      cases tick.symm.trans (exec_tick_retry waits.queue late left)
      refine ⟨by rw [tryIssue_out]; rfl, ?_, tryIssue_queue_tail _⟩
      rw [← List.head?_map, tryIssue_queue_map _ fun _ _ => rfl]
      rfl
    case expired =>
      cases tick.symm.trans (exec_tick_expire waits.queue late spent)
      refine ⟨by rw [tryIssue_out]; rfl, ?_⟩
      rw [← List.length_map (f := Transaction.tag), tryIssue_tags, List.length_map]
      rfl

/-! ### A request that is never answered (S5) -/

/-- The head's frame has just been loaded. -/
structure AttemptBegins (s : State) (h : Transaction) (rest : List Transaction) : Prop where
  waits  : Waits s h rest 0
  loaded : s.txBuf = wireForm (frameOf s.config h)
  fits   : h.len ≤ s.config.maxPayload

section
variable {s : State} {h : Transaction} {rest : List Transaction} {events : List Instr}

/-- R168's premise: before its last tick a silent attempt drains the frame and comes to the brink of the timeout. -/
theorem Waits.silentAttempt (hs : Waits s h rest 0) (silent : SilentAttempt s.config s.txBuf.length events) :
    ∃ before t k, events = before ++ [.tick] ∧ Waits t h rest k ∧ k + 1 = s.config.timeoutTicks ∧
      SilentRun before s t k s.txBuf [] ∧ t.txBuf = [] := by
  obtain ⟨before, rfl, perm⟩ := silent
  have positive := hs.early
  have nTicks : before.count .tick = s.config.timeoutTicks - 1 := by
    simp [perm.count_eq, List.count_append, List.count_replicate]
  have nBytes : before.count .txByte = s.txBuf.length := by
    simp [perm.count_eq, List.count_append, List.count_replicate]
  have only : ∀ i ∈ before, i = .tick ∨ i = .txByte := fun i hi =>
    (List.mem_append.1 (perm.mem_iff.1 hi)).imp List.eq_of_mem_replicate List.eq_of_mem_replicate
  obtain ⟨t, waits, run, tx, -⟩ := hs.run only (by omega) nBytes.le
  rw [Nat.zero_add] at waits
  rw [nBytes, List.take_length] at run
  rw [nBytes, List.drop_length] at tx
  exact ⟨before, t, _, rfl, waits, by omega, run, tx⟩

/-- R167: with attempts left a silent attempt ends in the next one, which has the same frame to send. -/
theorem AttemptBegins.retries (hs : AttemptBegins s h rest)
    (silent : SilentAttempt s.config s.txBuf.length events) (left : h.retryCount + 1 < s.config.maxAttempts) :
    ∃ t issueTime, SilentRun events s t s.config.timeoutTicks s.txBuf [] ∧ t.txBuf = s.txBuf ∧
      AttemptBegins t { h with state := .waiting, issueTime := issueTime, retryCount := h.retryCount + 1 } rest := by
  obtain ⟨before, u, k, rfl, waits, last, run, tx⟩ := hs.waits.silentAttempt silent
  obtain ⟨-, loaded, fits⟩ := hs
  have config := run.config
  rw [← config] at left loaded fits
  have tick := exec_tick_resend waits.queue (waits.timedOut_of_last (config ▸ last)) left tx fits
  have inRange : nextTime u < 2 ^ u.config.wTime := Nat.mod_lt _ (Nat.two_pow_pos _)
  have whole := run.append (.tick tick rfl)
  rw [last, List.append_nil] at whole
  exact ⟨_, nextTime u, whole, loaded.symm,
    ⟨rfl, rfl, inRange, (Nat.mod_eq_of_lt inRange).symm, Nat.zero_lt_of_lt waits.early, waits.short⟩, rfl, fits⟩

/-- R168: with no attempt left a silent attempt ends in the completion with TIMEOUT and the issue of the next. -/
theorem AttemptBegins.expires (hs : AttemptBegins s h rest)
    (silent : SilentAttempt s.config s.txBuf.length events) (spent : s.config.maxAttempts ≤ h.retryCount + 1) :
    ∃ u, SilentRun events s (tryIssue u) s.config.timeoutTicks s.txBuf [completionOf h .timeout none] ∧
      (tryIssue u).out.cpl.isSome = true ∧ u.queue = rest ∧ u.txBuf = [] := by
  obtain ⟨before, v, k, rfl, waits, last, run, tx⟩ := hs.waits.silentAttempt silent
  have config := run.config
  have tick := exec_tick_expire waits.queue (waits.timedOut_of_last (config ▸ last)) (config ▸ spent)
  have whole := run.append (.tick tick (by rw [tryIssue_out]; rfl))
  rw [last, List.append_nil, tryIssue_out] at whole
  exact ⟨_, whole, by rw [tryIssue_out]; rfl, rfl, tx⟩

end

/-- S5 from any attempt on: as many silent attempts as are left fail the request. -/
theorem AttemptBegins.fails {attempts : List (List Instr)} {s : State} {h : Transaction} {rest : List Transaction}
    (hs : AttemptBegins s h rest) (silent : ∀ a ∈ attempts, SilentAttempt s.config s.txBuf.length a)
    (all : attempts.length + h.retryCount = s.config.maxAttempts) (any : attempts ≠ []) :
    ∃ u, SilentRun attempts.flatten s (tryIssue u) (attempts.length * s.config.timeoutTicks)
        (List.replicate attempts.length s.txBuf).flatten [completionOf h .timeout none] ∧
      (tryIssue u).out.cpl.isSome = true ∧ u.queue = rest ∧ u.txBuf = [] := by
  induction attempts generalizing s h with
  | nil => exact absurd rfl any
  | cons a later ih =>
    obtain ⟨silentA, silentLater⟩ := List.forall_mem_cons.1 silent
    rw [List.length_cons] at all
    cases later with
    | nil =>
      rw [List.length_nil] at all
      simpa using hs.expires silentA (by omega)
    | cons b more =>
      have left : h.retryCount + 1 < s.config.maxAttempts := by rw [List.length_cons] at all; omega
      obtain ⟨t, issueTime, run, tx, begins⟩ := hs.retries silentA left
      have config := run.config
      rw [← config, ← tx] at silentLater
      obtain ⟨u, runLater, ends⟩ := ih begins silentLater (by rw [config]; dsimp only; omega) nofun
      have whole := run.append runLater
      rw [config, tx, Nat.add_comm s.config.timeoutTicks, ← Nat.succ_mul] at whole
      exact ⟨u, whole, ends⟩

/-- Settles O39: all attempts of the request fail, and the last tick issues what stands behind it. -/
theorem unansweredRequestFailsAfterAllAttempts : Obligations.UnansweredRequestFailsAfterAllAttempts := by
  intro s h rest attempts inv hq waiting fresh issued loaded short all silent events
  have fits : ∀ x ∈ h :: rest, x.len ≤ s.config.maxPayload := fun x hx => by
    obtain ⟨-, len, -⟩ := inv.records x (hq ▸ hx)
    exact len
  have tail : TailQueued (h :: rest) := hq ▸ inv.tail
  obtain ⟨-, -, positive, -⟩ := inv.config
  have any : attempts ≠ [] := List.ne_nil_of_length_pos (all ▸ positive)
  have begins : AttemptBegins s h rest :=
    ⟨.of_issued hq waiting issued inv.time inv.config short, loaded, fits h List.mem_cons_self⟩
  rw [← loaded] at silent ⊢
  obtain ⟨u, run, shown, queue, tx⟩ := begins.fails silent (by rw [fresh, all]; rfl) any
  have config := (tryIssue_config u).symm.trans run.config
  rw [all] at run
  refine ⟨tryIssue u, run.run, run.rx, run.now, fun alone => ?_, fun g behind hg => ?_, run.cpls, shown, run.sent⟩
  · rw [tryIssue_nil (queue.trans alone)]
    exact ⟨queue.trans alone, tx⟩
  · subst hg
    have queued : g.state = .queued := (tail g List.mem_cons_self).1
    have fitsG : g.len ≤ u.config.maxPayload := config ▸ fits g (List.mem_cons_of_mem h List.mem_cons_self)
    rw [tryIssue_load queue ((wantsToSend_iff g).2 (.inl queued)) ((wireBusy_eq_false u).2 tx)
      ((frameOf_payload_le _ g).trans fitsG), config]
    exact ⟨rfl, rfl⟩

end Sys2Proof.Machine

/-! ## Nothing halts (R212) -/

namespace Sys2Proof.Machine

/-- Settles O46: what is no link word decodes, and what it decodes to answers. -/
theorem nothingHalts : Obligations.NothingHalts := by
  obtain ⟨decodes, -⟩ := decodingIsTotalAndWellFormed
  refine ⟨exec_total, fun s valid port => ?_⟩
  cases hw : s.inputs with
  | nil => exact ⟨_, step_of_inputs_nil valid hw⟩
  | cons w rest =>
    cases held : notTaken s w with
    | true => exact ⟨_, step_of_notTaken valid hw held⟩
    | false =>
      obtain ⟨i, hi⟩ := decodes s.config w fun bs =>
        ⟨fun e => (port bs rest).1 (e ▸ hw), fun e => (port bs rest).2 (e ▸ hw)⟩
      rw [step_of_decode_ok valid hw held hi]
      exact exec_total i _

end Sys2Proof.Machine

/-! ## What each operation shows on the ports (R34 to R37) -/

namespace Sys2Proof.Machine

/-- What an operation shows beside a completion: a request its status (R35), a received byte its result (R37), TX_BYTE
the byte it takes (R34), RESET the table of R40, ENCODE its result (log 16). -/
def portsShown (i : Instr) (s : State) : Outputs :=
  match i with
  | .reqNone => { Outputs.quiet with reqStatus := if reqReady s 0 then some .accepted else none }
  | .reqGet .. => { Outputs.quiet with reqStatus := if reqReady s 1 then some .accepted else none }
  | .reqSet _ len _ _ =>
    { Outputs.quiet with
      reqStatus :=
        if reqReady s 2 then some (if s.config.maxPayload < len.toNat then .encodeError else .accepted) else none }
  | .cancel _ => { Outputs.quiet with reqStatus := some .accepted }
  | .txByte => { Outputs.quiet with txData := s.txBuf.head? }
  | .reset => Outputs.afterReset
  | .encode f => { Outputs.quiet with encoded := some (encodeFrame s.config f) }
  | i => if isFeed i then { Outputs.quiet with rx := some (deframerCase s.config i s.rx).2 } else Outputs.quiet

theorem portsShown_of_isFeed {i : Instr} (hi : isFeed i = true) (s : State) :
    portsShown i s = { Outputs.quiet with rx := some (deframerCase s.config i s.rx).2 } := by
  cases i with
  | feedColon | feedCr | feedLf | feedHex07 | feedHex89 | feedHexA | feedHexBC | feedHexDE | feedHexF | feedOther => rfl
  | _ => cases hi

/-- OnFrame drives the completion port alone. -/
theorem onFrame_out (f : Frame) (s : State) : (onFrame f s).out = { s.out with cpl := (onFrame f s).out.cpl } := by
  rcases onFrame_cases f s with e | ⟨h, rest, -, -, -, ⟨-, e⟩ | ⟨-, e⟩⟩ <;> rw [e]
  · rw [complete_out]
  · rw [complete_out]

/-- So does the timer. -/
theorem checkTimer_out (s : State) : (checkTimer s).out = { s.out with cpl := (checkTimer s).out.cpl } := by
  rcases checkTimer_cases s with e | ⟨h, rest, -, -, ⟨-, e⟩ | ⟨-, e⟩⟩ <;> rw [e]
  · rfl
  · rw [complete_out]

theorem rxEvent_out (case : Deframer → Deframer × RxResult) (s : State) :
    (rxEvent case s).out = { Outputs.quiet with rx := some (case s.rx).2, cpl := (rxEvent case s).out.cpl } := by
  rcases rxEvent_cases case s with ⟨f, hf, e⟩ | ⟨-, e⟩ <;> rw [e]
  · rw [hf, onFrame_out]
    rfl
  · rfl

/-- The ports of an operation: those of `portsShown`, and its completion. -/
theorem exec_out {i : Instr} {s t : State} (h : exec i s = .next t) :
    t.out = { portsShown i s with cpl := t.out.cpl } := by
  by_cases fed : isFeed i = true
  · rw [exec_feed fed] at h
    cases h
    rw [portsShown_of_isFeed fed, rxEvent_out]
  cases i with
  | get | set => cases h; rw [sendFrame_keeps State.out tryIssue_out]; rfl
  | ack | nak | err | other => cases h; rw [onFrame_out]; rfl
  | reqNone => cases h; dsimp only [portsShown]; split <;> rfl
  | reqGet => cases h; dsimp only [portsShown]; split <;> simp [Outputs.quiet]
  | reqSet =>
    cases h
    dsimp only [portsShown]
    split
    · split <;> simp [Outputs.quiet]
    · rfl
  | cancel => cases h; rw [tryIssue_out]; rfl
  | txByte => cases h; dsimp only [portsShown]; cases s.txBuf <;> simp [Outputs.quiet]
  | tick => cases h; rw [tryIssue_out, checkTimer_out]; rfl
  | reset | encode => cases h; rfl
  | feedColon | feedCr | feedLf | feedHex07 | feedHex89 | feedHexA | feedHexBC | feedHexDE | feedHexF | feedOther =>
    exact absurd rfl fed

end Sys2Proof.Machine

/-! ## Errors (R200 to R210) -/

namespace Sys2Proof.Machine

/-- The cause R200 names for each error. -/
def ErrorCause (i : Instr) (s t : State) : BlockError → Prop
  | .checksum | .malformedFrame => (i = .feedCr ∨ i = .feedLf) ∧ s.rx.state = .collecting ∧ SameEngine s t
  | .deviceTimeout =>
    i = .tick ∧ ∃ h rest, s.queue = h :: rest ∧ h.state = .waiting ∧ s.config.maxAttempts ≤ h.retryCount + 1 ∧
      s.config.timeoutTicks ≤ elapsed s.config (nextTime s) h.issueTime
  | .setRejected =>
    ∃ f h rest, Delivers i s f ∧ s.queue = h :: rest ∧ h.outstanding = true ∧ f.address = h.address ∧
      (f.cmd = s.config.cmdNak ∨ f.cmd = s.config.cmdErr)
  | .encodeError =>
    (∃ address len data tag, i = .reqSet address len data tag ∧ s.config.maxPayload < len.toNat ∧ SameEngine s t) ∨
      ∃ f, i = .encode f

/-- The errors `es` of an event are none, or one with its cause. -/
def Raises (i : Instr) (s t : State) (es : List BlockError) : Prop := es = [] ∨ ∃ e, es = [e] ∧ ErrorCause i s t e

/-- The error of a completion (R204, R205) by the row of R170 that emits it. -/
theorem QueueChange.raises {i : Instr} {s : State} {q : List Transaction} {c : Option Completion}
    (change : QueueChange i s q c) (t : State) : Raises i s t (c.toList.flatMap (·.result.error)) := by
  cases change with
  | rejected x _ f hq out hf address kind =>
    exact .inr ⟨.setRejected, rfl, f, x, _, hf, hq, out, address, kind⟩
  | expired x _ hi hq waiting late spent =>
    exact .inr ⟨.deviceTimeout, rfl, hi, x, _, hq, waiting, spent, late⟩
  | _ => exact .inl rfl

theorem exec_completion_raises {i : Instr} {s t : State} (h : exec i s = .next t) :
    Raises i s t (t.out.cpl.toList.flatMap (·.result.error)) := by
  rcases exec_engineMoves h with ⟨-, -, quiet⟩ | ⟨u, -, change, -⟩
  · exact .inl (by rw [quiet]; rfl)
  · exact change.raises t

/-- Where the other ports show no error, the errors are those of the completion. -/
theorem Outputs.errors_of_cpl {o p : Outputs} (shown : o = { p with cpl := o.cpl }) (none : p.errors = []) :
    o.errors = o.cpl.toList.flatMap (·.result.error) := by
  simp only [Outputs.errors, List.append_eq_nil_iff] at none
  obtain ⟨⟨⟨status, verdict⟩, -⟩, encoded⟩ := none
  rw [shown]
  simp only [Outputs.errors, status, verdict, encoded, List.nil_append, List.append_nil]

theorem verdictShown_errors (s : State) : (verdictShown s).out.errors = (validate s.rx.nib s.rx.bad).error := by
  simp [verdictShown, Outputs.errors, Outputs.quiet]

/-- A verdict that is an error (R202, R203) comes from a terminator, and the engine does not see it. -/
theorem exec_feed_raises {i : Instr} {s t : State} (hi : isFeed i = true) (h : exec i s = .next t) :
    Raises i s t t.out.errors := by
  rcases rxEvent_frame_source i s t hi h with ⟨term, collecting, -⟩ | ⟨r, rfl⟩
  · obtain ⟨valid, invalid⟩ := exec_terminator term collecting
    have errors := verdictShown_errors s
    cases verdict : validate s.rx.nib s.rx.bad with
    | noResult => exact absurd verdict (validate_ne_noResult _ _)
    | frame f =>
      cases (valid f verdict).symm.trans h
      rw [Outputs.errors_of_cpl (onFrame_out f _) (by rw [errors, verdict]; rfl)]
      exact exec_completion_raises h
    | checksumErr | malformedErr =>
      cases (invalid (by simp [verdict])).symm.trans h
      rw [errors, verdict]
      exact .inr ⟨_, rfl, term, collecting, rfl, rfl, rfl⟩
  · exact .inl rfl

/-- Beside a verdict only a REQ_SET that is too long (R201) and ENCODE (R103) can show an error on a port of their
own. -/
theorem portsShown_errors_cases {i : Instr} (unfed : isFeed i = false) (s : State) :
    (portsShown i s).errors = [] ∨
      (∃ address len data tag, i = .reqSet address len data tag ∧ reqReady s 2 = true ∧
        s.config.maxPayload < len.toNat) ∨
      ∃ f, i = .encode f := by
  cases i with
  | reqNone | reqGet => dsimp only [portsShown]; split <;> exact .inl rfl
  | reqSet address len data tag =>
    by_cases refused : reqReady s 2 = true ∧ s.config.maxPayload < len.toNat
    · exact .inr (.inl ⟨address, len, data, tag, rfl, refused⟩)
    · refine .inl ?_
      dsimp only [portsShown]
      split
      · next ready => rw [if_neg fun tooLong => refused ⟨ready, tooLong⟩]; rfl
      · rfl
  | encode f => exact .inr (.inr ⟨f, rfl⟩)
  | get | set | ack | nak | err | other | cancel | txByte | tick | reset => exact .inl rfl
  | feedColon | feedCr | feedLf | feedHex07 | feedHex89 | feedHexA | feedHexBC | feedHexDE | feedHexF | feedOther =>
    cases unfed

/-- R209: an event raises no error, or one with the cause R200 names. -/
theorem exec_raises {i : Instr} {s t : State} (h : exec i s = .next t) : Raises i s t t.out.errors := by
  cases fed : isFeed i with
  | true => exact exec_feed_raises fed h
  | false =>
    rcases portsShown_errors_cases fed s with none | ⟨address, len, data, tag, rfl, ready, tooLong⟩ | ⟨f, rfl⟩
    · rw [Outputs.errors_of_cpl (exec_out h) none]
      exact exec_completion_raises h
    · have room : s.queue.length < s.config.qDepth := by simpa using (reqReady_iff s 2).1 ready
      cases (exec_reqSet_tooLong room address tooLong data tag).symm.trans h
      exact .inr ⟨.encodeError, rfl, .inl ⟨address, len, data, tag, rfl, tooLong, rfl, rfl, rfl⟩⟩
    · rw [exec_encode] at h
      cases h
      cases encoded : encodeFrame s.config f with
      | bytes => exact .inl rfl
      | encodeError => exact .inr ⟨.encodeError, rfl, .inr ⟨f, rfl⟩⟩

/-- Settles O48: the errors of an event are none, or one with its cause. -/
theorem oneEventRaisesAtMostOneError : Obligations.OneEventRaisesAtMostOneError := by
  intro i s t h
  rcases exec_raises h with none | ⟨e, one, cause⟩
  · simp [none]
  · simp only [one, List.mem_singleton]
    refine ⟨le_rfl, ?_, ?_, ?_, ?_⟩
    · rintro (rfl | rfl) <;> exact cause
    · rintro rfl; exact cause
    · rintro rfl; exact cause
    · rintro rfl; exact cause

end Sys2Proof.Machine

/-! ## One clock cycle (R208) -/

namespace Sys2Proof.Machine

/-! ### Sequences of events -/

theorem runEvents_total (es : List Instr) (s : State) : ∃ t, runEvents es s = .next t := by
  induction es generalizing s with
  | nil => exact ⟨s, rfl⟩
  | cons i is ih =>
    obtain ⟨u, hu⟩ := exec_total i s
    rw [runEvents_cons hu]
    exact ih u

/-- What each event of a sequence keeps, the sequence keeps. -/
theorem runEvents_invariant {P : State → Prop} {es : List Instr} {s t : State}
    (step : ∀ i ∈ es, ∀ u v, P u → exec i u = .next v → P v) (hs : P s) (h : runEvents es s = .next t) : P t := by
  induction es generalizing s with
  | nil => cases h; exact hs
  | cons i is ih =>
    obtain ⟨first, later⟩ := List.forall_mem_cons.1 step
    obtain ⟨u, hu⟩ := exec_total i s
    rw [runEvents_cons hu] at h
    exact ih later (first s u hs hu) h

/-- What each event of a sequence shows whatever its state, all of them show. -/
theorem forall_mem_outputsOf {P : Outputs → Prop} {es : List Instr}
    (each : ∀ i ∈ es, ∀ u v, exec i u = .next v → P v.out) (s : State) : ∀ o ∈ outputsOf es s, P o := by
  induction es generalizing s with
  | nil => nofun
  | cons i is ih =>
    obtain ⟨first, later⟩ := List.forall_mem_cons.1 each
    obtain ⟨u, hu⟩ := exec_total i s
    rw [outputsOf_cons hu]
    exact List.forall_mem_cons.2 ⟨first s u hu, ih later u⟩

/-- A port that no event of a sequence drives stays without a value. -/
theorem findSome?_outputsOf_eq_none {α : Type} {port : Outputs → Option α} {es : List Instr}
    (each : ∀ i ∈ es, ∀ u v, exec i u = .next v → port v.out = none) (s : State) :
    (outputsOf es s).findSome? port = none :=
  List.findSome?_eq_none_iff.2 (forall_mem_outputsOf each s)

/-- R31 over a sequence. -/
theorem runEvents_surroundings {es : List Instr} {s t : State} (h : runEvents es s = .next t) : SameSurroundings s t :=
  runEvents_invariant (P := SameSurroundings s)
    (fun _ _ _ _ ⟨config, inputs⟩ hv =>
      have ⟨config', inputs'⟩ := parametersNeverChange _ _ _ hv
      ⟨config'.trans config, inputs'.trans inputs⟩)
    ⟨rfl, rfl⟩ h

/-! ### The ports of a cycle -/

/-- What the ports show in a cycle whose events showed `outs`. -/
def cycleOutputs (outs : List Outputs) : Outputs := outs.foldr Outputs.merge Outputs.quiet

/-- A port shows in a cycle what the first event that drives it showed. -/
theorem cycleOutputs_port {α : Type} (port : Outputs → Option α) (quiet : port Outputs.quiet = none)
    (merge : ∀ a b, port (a.merge b) = (port a).or (port b)) (outs : List Outputs) :
    port (cycleOutputs outs) = outs.findSome? port := by
  induction outs with
  | nil => exact quiet
  | cons o os ih =>
    have first : port (cycleOutputs (o :: os)) = (port o).or (port (cycleOutputs os)) := merge o (cycleOutputs os)
    rw [first, ih, List.findSome?_cons]
    cases port o <;> rfl

theorem merge_quiet (o : Outputs) : o.merge Outputs.quiet = o := by simp [Outputs.merge, Outputs.quiet]

/-- A cycle runs its events one after another, and merges what they show. -/
theorem runCycle_eq {es : List Instr} {s u : State} (h : runEvents es s = .next u) :
    ∃ t, runCycle es s = .next t ∧ t.rx = u.rx ∧ SameEngine u t ∧ SameSurroundings u t ∧
      t.out = cycleOutputs (outputsOf es s) := by
  induction es generalizing s with
  | nil => cases h; exact ⟨_, rfl, rfl, ⟨rfl, rfl, rfl⟩, ⟨rfl, rfl⟩, rfl⟩
  | cons i is ih =>
    obtain ⟨v, hv⟩ := exec_total i s
    rw [runEvents_cons hv] at h
    rw [outputsOf_cons hv]
    cases is with
    | nil =>
      cases h
      exact ⟨u, hv, rfl, ⟨rfl, rfl, rfl⟩, ⟨rfl, rfl⟩, (merge_quiet u.out).symm⟩
    | cons j js =>
      obtain ⟨t, run, rx, engine, surroundings, out⟩ := ih h
      refine ⟨{ t with out := v.out.merge t.out }, by simp [runCycle, hv, run], rx, engine, surroundings, ?_⟩
      rw [out]
      rfl

/-! ### The events of a cycle -/

/-- The operations that are a handshake on the request port (R86). -/
def isRequest : Instr → Bool
  | .reqNone | .reqGet .. | .reqSet .. | .cancel _ => true
  | _ => false

/-- The event of `rx_valid`. -/
def receivedEvents (p : Pins) : List Instr := if p.rxValid then [decodeByte p.rxData] else []

/-- The event of `tick`. -/
def tickEvents (p : Pins) : List Instr := if p.tick then [.tick] else []

/-- The event of `req_valid`, with `req_ready` that of the state `s` at the start. -/
def requestEvents (p : Pins) (s : State) : List Instr :=
  if p.reqValid && reqReady s p.reqOp then [decodeReq s.config p.reqOp p.reqAddr p.reqLen p.reqData p.reqTag] else []

/-- The event of `tx_ready`, with `tx_valid` that of the state `s` at the start. -/
def byteEvents (p : Pins) (s : State) : List Instr := if p.txReady && wireBusy s then [.txByte] else []

theorem cycleEvents_eq {p : Pins} (noReset : p.rst = false) (s : State) :
    cycleEvents p s = receivedEvents p ++ tickEvents p ++ requestEvents p s ++ byteEvents p s :=
  if_neg (by simp [noReset])

/-- The events behind a received byte. -/
def laterEvents (p : Pins) (s : State) : List Instr := tickEvents p ++ (requestEvents p s ++ byteEvents p s)

theorem cycleEvents_of_rxValid {p : Pins} (noReset : p.rst = false) (received : p.rxValid = true) (s : State) :
    cycleEvents p s = decodeByte p.rxData :: laterEvents p s := by
  rw [cycleEvents_eq noReset, receivedEvents, if_pos received, List.append_assoc, List.append_assoc]
  rfl

theorem cycleEvents_of_not_rxValid {p : Pins} (noReset : p.rst = false) (received : p.rxValid = false) (s : State) :
    cycleEvents p s = laterEvents p s := by
  rw [cycleEvents_eq noReset, receivedEvents, if_neg (by simp [received]), List.append_assoc, List.append_assoc]
  rfl

theorem isRequest_decodeReq (c : Config) (op : BitVec 2) (addr : Addr) (len : BitVec 6) (data : BitVec 256)
    (tag : Nat) : isRequest (decodeReq c op addr len data tag) = true := by
  unfold decodeReq
  split_ifs <;> rfl

theorem ne_of_isFeed {i : Instr} (fed : isFeed i = true) : isRequest i = false ∧ i ≠ .txByte ∧ i ≠ .reset := by
  cases i with
  | feedColon | feedCr | feedLf | feedHex07 | feedHex89 | feedHexA | feedHexBC | feedHexDE | feedHexF | feedOther =>
    exact ⟨rfl, nofun, nofun⟩
  | _ => cases fed

theorem ne_of_isRequest {i : Instr} (asked : isRequest i = true) :
    isFeed i = false ∧ i ≠ .tick ∧ i ≠ .txByte ∧ i ≠ .reset := by
  cases i with
  | reqNone | reqGet | reqSet | cancel => exact ⟨rfl, nofun, nofun, nofun⟩
  | _ => cases asked

theorem mem_tickEvents {p : Pins} {i : Instr} (hi : i ∈ tickEvents p) : i = .tick := by
  simp only [tickEvents, List.mem_ite_nil_right, List.mem_singleton] at hi
  exact hi.2

/-- The events in front of a request are a received byte and a tick. -/
theorem mem_timedEvents {p : Pins} {i : Instr} (hi : i ∈ receivedEvents p ++ tickEvents p) :
    isRequest i = false ∧ i ≠ .txByte ∧ i ≠ .reset := by
  rcases List.mem_append.1 hi with hi | hi
  · simp only [receivedEvents, List.mem_ite_nil_right, List.mem_singleton] at hi
    obtain ⟨-, rfl⟩ := hi
    exact ne_of_isFeed (isFeed_decodeByte p.rxData)
  · cases mem_tickEvents hi
    exact ⟨rfl, nofun, nofun⟩

theorem mem_requestEvents {p : Pins} {s : State} {i : Instr} (hi : i ∈ requestEvents p s) : isRequest i = true := by
  simp only [requestEvents, List.mem_ite_nil_right, List.mem_singleton] at hi
  obtain ⟨-, rfl⟩ := hi
  exact isRequest_decodeReq ..

theorem mem_byteEvents {p : Pins} {s : State} {i : Instr} (hi : i ∈ byteEvents p s) : i = .txByte := by
  simp only [byteEvents, List.mem_ite_nil_right, List.mem_singleton] at hi
  exact hi.2

/-- The events in front of TX_BYTE take nothing from the transmitter. -/
theorem mem_earlierEvents {p : Pins} {s : State} {i : Instr}
    (hi : i ∈ receivedEvents p ++ tickEvents p ++ requestEvents p s) : i ≠ .txByte ∧ i ≠ .reset := by
  rcases List.mem_append.1 hi with hi | hi
  · exact (mem_timedEvents hi).2
  · obtain ⟨-, -, other⟩ := ne_of_isRequest (mem_requestEvents hi)
    exact other

/-- The events behind a received byte receive none. -/
theorem mem_laterEvents {p : Pins} {s : State} {i : Instr} (hi : i ∈ laterEvents p s) :
    isFeed i = false ∧ i ≠ .reset := by
  rcases List.mem_append.1 hi with hi | hi
  · cases mem_tickEvents hi
    exact ⟨rfl, nofun⟩
  rcases List.mem_append.1 hi with hi | hi
  · obtain ⟨unfed, -, -, noReset⟩ := ne_of_isRequest (mem_requestEvents hi)
    exact ⟨unfed, noReset⟩
  · cases mem_byteEvents hi
    exact ⟨rfl, nofun⟩

/-! ### What each event drives and keeps -/

section
variable {i : Instr} {s t : State}

theorem exec_txData_eq_none (noTxByte : i ≠ .txByte) (h : exec i s = .next t) : t.out.txData = none := by
  rw [exec_out h]
  cases i with
  | txByte => exact absurd rfl noTxByte
  | _ => rfl

theorem exec_reqStatus_eq_none (noRequest : isRequest i = false) (h : exec i s = .next t) :
    t.out.reqStatus = none := by
  rw [exec_out h]
  cases i with
  | reqNone | reqGet | reqSet | cancel => cases noRequest
  | _ => rfl

theorem exec_rx_eq_none (unfed : isFeed i = false) (noReset : i ≠ .reset) (h : exec i s = .next t) :
    t.out.rx = none := by
  rw [exec_out h]
  cases i with
  | feedColon | feedCr | feedLf | feedHex07 | feedHex89 | feedHexA | feedHexBC | feedHexDE | feedHexF | feedOther =>
    cases unfed
  | reset => exact absurd rfl noReset
  | _ => rfl

theorem exec_rx_of_isFeed (fed : isFeed i = true) (h : exec i s = .next t) :
    t.out.rx = some (deframerCase s.config i s.rx).2 := by
  rw [exec_out h, portsShown_of_isFeed fed]

end

/-- R35: a request that is ready is answered. -/
theorem exec_decodeReq_answers {s t : State} {c : Config} {op : BitVec 2} {addr : Addr} {len : BitVec 6}
    {data : BitVec 256} {tag : Nat} (ready : reqReady s op = true)
    (h : exec (decodeReq c op addr len data tag) s = .next t) : t.out.reqStatus.isSome = true := by
  rw [exec_out h]
  unfold decodeReq
  split_ifs with none get set
  · subst none; exact congrArg Option.isSome (if_pos ready)
  · subst get; exact congrArg Option.isSome (if_pos ready)
  · subst set; exact congrArg Option.isSome (if_pos ready)
  · rfl

/-- Only a request makes the queue longer (R170). -/
theorem QueueChange.length_le {i : Instr} {s : State} {q : List Transaction} {c : Option Completion}
    (change : QueueChange i s q c) (noRequest : isRequest i = false) : q.length ≤ s.queue.length := by
  cases change with
  | keep => exact le_rfl
  | acceptGet _ _ hi | acceptSet _ _ _ _ hi | cancelled _ hi => subst hi; cases noRequest
  | cleared => exact Nat.zero_le _
  | acked _ _ _ hq | rejected _ _ _ hq | retried _ _ _ hq | expired _ _ _ hq => simp [hq]

theorem exec_queue_length_le {i : Instr} {s t : State} (noRequest : isRequest i = false) (h : exec i s = .next t) :
    t.queue.length ≤ s.queue.length := by
  rcases exec_engineMoves h with ⟨⟨-, queue, -⟩, -, -⟩ | ⟨u, rfl, change, -⟩
  · exact queue ▸ le_rfl
  · rw [← List.length_map (f := Transaction.tag), tryIssue_tags, List.length_map]
    exact change.length_le noRequest

/-! ### The ports of a cycle, one by one -/

/-- What the events before a request leave of the room in the queue. -/
theorem reqReady_after_timedEvents {p : Pins} {s t : State} {op : BitVec 2} (ready : reqReady s op = true)
    (h : runEvents (receivedEvents p ++ tickEvents p) s = .next t) : reqReady t op = true := by
  have shorter : t.queue.length ≤ s.queue.length := by
    refine runEvents_invariant (P := fun u => u.queue.length ≤ s.queue.length) (fun i hi u v hu hv => ?_) le_rfl h
    obtain ⟨noRequest, -⟩ := mem_timedEvents hi
    exact (exec_queue_length_le noRequest hv).trans hu
  have ⟨config, _⟩ := runEvents_surroundings h
  exact (reqReady_iff t op).2 (((reqReady_iff s op).1 ready).imp_left fun room => config ▸ shorter.trans_lt room)

/-- The bytes in the transmitter stay for the byte event of the cycle. -/
theorem txBuf_before_byteEvents {p : Pins} {s t : State} (busy : s.txBuf ≠ [])
    (h : runEvents (receivedEvents p ++ tickEvents p ++ requestEvents p s) s = .next t) : t.txBuf = s.txBuf := by
  refine runEvents_invariant (P := fun u => u.txBuf = s.txBuf) (fun i hi u v hu hv => ?_) rfl h
  obtain ⟨noTxByte, noReset⟩ := mem_earlierEvents hi
  have left : wireLeft i u = s.txBuf := (wireLeft_eq_txBuf noTxByte noReset u).trans hu
  exact (exec_txBuf_of_wireLeft_ne_nil hv (left ▸ busy)).trans left

/-- R34, R208: the byte taken is the one shown at the start of the cycle. -/
theorem cycle_txData {p : Pins} (noReset : p.rst = false) (s : State) :
    (outputsOf (cycleEvents p s) s).findSome? (·.txData) = if p.txReady then s.txBuf.head? else none := by
  obtain ⟨t, run⟩ := runEvents_total (receivedEvents p ++ tickEvents p ++ requestEvents p s) s
  rw [cycleEvents_eq noReset, (runEvents_append run).2, List.findSome?_append,
    findSome?_outputsOf_eq_none fun i hi u v => exec_txData_eq_none (mem_earlierEvents hi).1, Option.none_or]
  cases taken : p.txReady with
  | false => simp [byteEvents, taken, outputsOf]
  | true =>
    cases loaded : s.txBuf with
    | nil => simp [byteEvents, wireBusy, loaded, outputsOf]
    | cons b w =>
      have event : byteEvents p s = [.txByte] := by simp [byteEvents, taken, wireBusy, loaded]
      have same := txBuf_before_byteEvents (by simp [loaded]) run
      rw [event, outputsOf_cons (exec_txByte_cons (same.trans loaded)), tryIssue_out]
      rfl

/-- R35: a cycle answers its request exactly when it was ready at the start. -/
theorem cycle_reqStatus {p : Pins} (noReset : p.rst = false) (s : State) :
    ((outputsOf (cycleEvents p s) s).findSome? (·.reqStatus)).isSome = (p.reqValid && reqReady s p.reqOp) := by
  obtain ⟨t, run⟩ := runEvents_total (receivedEvents p ++ tickEvents p) s
  rw [cycleEvents_eq noReset, List.append_assoc, (runEvents_append run).2, List.findSome?_append,
    findSome?_outputsOf_eq_none fun i hi u v => exec_reqStatus_eq_none (mem_timedEvents hi).1, Option.none_or]
  cases asked : p.reqValid && reqReady s p.reqOp with
  | false =>
    rw [requestEvents, if_neg (by simp [asked]), List.nil_append, findSome?_outputsOf_eq_none fun i hi u v =>
      exec_reqStatus_eq_none (mem_byteEvents hi ▸ rfl)]
    rfl
  | true =>
    obtain ⟨u, hu⟩ := exec_total (decodeReq s.config p.reqOp p.reqAddr p.reqLen p.reqData p.reqTag) t
    have ready := reqReady_after_timedEvents (Bool.and_eq_true_iff.1 asked).2 run
    have answered := exec_decodeReq_answers ready hu
    rw [requestEvents, if_pos asked, List.singleton_append, outputsOf_cons hu,
      List.findSome?_cons_of_isSome answered, answered]

/-- R37: a cycle shows a result exactly when it receives a byte. -/
theorem cycle_rx {p : Pins} (noReset : p.rst = false) (s : State) :
    ((outputsOf (cycleEvents p s) s).findSome? (·.rx)).isSome = p.rxValid := by
  cases received : p.rxValid with
  | false =>
    rw [cycleEvents_of_not_rxValid noReset received, findSome?_outputsOf_eq_none fun i hi u v =>
      exec_rx_eq_none (mem_laterEvents hi).1 (mem_laterEvents hi).2]
    rfl
  | true =>
    obtain ⟨u, hu⟩ := exec_total (decodeByte p.rxData) s
    have shown : u.out.rx.isSome = true := by rw [exec_rx_of_isFeed (isFeed_decodeByte _) hu, Option.isSome_some]
    rw [cycleEvents_of_rxValid noReset received, outputsOf_cons hu, List.findSome?_cons_of_isSome shown, shown]

/-- Settles O49: a cycle is its sequence of events with the ports merged, and each port has one event that drives it. -/
theorem cycleAppliesItsEventsInOrder : Obligations.CycleAppliesItsEventsInOrder := by
  intro p s noReset events
  have inOrder : cycleEvents p s = events := cycleEvents_eq noReset s
  obtain ⟨u, run⟩ := runEvents_total events s
  obtain ⟨t, cycle, rx, engine, ⟨config, inputs⟩, out⟩ := runCycle_eq run
  have ⟨config', inputs'⟩ := runEvents_surroundings run
  have asCycle : clock p s = .next t := (congrArg (runCycle · s) inOrder).trans cycle
  refine ⟨t, u, asCycle, run, rx, engine, ⟨config.trans config', inputs.trans inputs'⟩, ?_, ?_, ?_⟩ <;>
    rw [out, ← inOrder]
  · rw [cycleOutputs_port (·.txData) rfl fun _ _ => rfl, cycle_txData noReset]
  · rw [cycleOutputs_port (·.reqStatus) rfl fun _ _ => rfl, cycle_reqStatus noReset]
  · rw [cycleOutputs_port (·.rx) rfl fun _ _ => rfl, cycle_rx noReset]

end Sys2Proof.Machine

/-! ## At most one completion in a cycle (R208) -/

namespace Sys2Proof.Machine

/-! ### Which operations complete a transaction -/

/-- Only a frame and a timeout complete a transaction (R170). -/
theorem QueueChange.cpl_eq_none {i : Instr} {s : State} {q : List Transaction} {c : Option Completion}
    (change : QueueChange i s q c) (noTick : i ≠ .tick) (noFrame : ∀ f, ¬ Delivers i s f) : c = none := by
  cases change with
  | acked _ _ f _ _ hf | rejected _ _ f _ _ hf => exact absurd hf (noFrame f)
  | expired _ _ hi => exact absurd hi noTick
  | _ => rfl

theorem exec_cpl_eq_none {i : Instr} {s t : State} (h : exec i s = .next t) (noTick : i ≠ .tick)
    (noFrame : ∀ f, ¬ Delivers i s f) : t.out.cpl = none := by
  rcases exec_engineMoves h with ⟨-, -, quiet⟩ | ⟨u, -, change, -⟩
  · exact quiet
  · exact change.cpl_eq_none noTick noFrame

theorem not_delivers {i : Instr} {s : State} (unfed : isFeed i = false) (noFrame : receivedFrame s.config i = none)
    (f : Frame) : ¬ Delivers i s f := by
  rintro (hf | ⟨rfl | rfl, -⟩)
  · cases noFrame.symm.trans hf
  · cases unfed
  · cases unfed

theorem receivedFrame_of_isRequest {i : Instr} (asked : isRequest i = true) (c : Config) :
    receivedFrame c i = none := by
  cases i with
  | reqNone | reqGet | reqSet | cancel => rfl
  | _ => cases asked

/-- R170: the completed transaction leaves the head of the queue. -/
theorem QueueChange.queue_eq_tail {i : Instr} {s : State} {q : List Transaction} {c : Completion}
    (change : QueueChange i s q (some c)) : q = s.queue.tail := by
  cases change with
  | acked _ _ _ hq | rejected _ _ _ hq | expired _ _ _ hq => rw [hq, List.tail_cons]

/-! ### No timeout behind a completion -/

/-- The head, if it waits, has been waiting since now. -/
def JustIssued (s : State) : Prop := ∀ h rest, s.queue = h :: rest → h.state = .waiting → h.issueTime = s.now

/-- R144, R29: the issue procedure on a queue of which nothing is outstanding. -/
theorem tryIssue_justIssued {s : State} (queued : ∀ x ∈ s.queue, x.state = .queued) : JustIssued (tryIssue s) := by
  rcases tryIssue_cases s with e | ⟨h, rest, -, -, -, -, e⟩ <;> rw [e] <;> intro x xs hx waiting
  · cases (queued x (hx ▸ List.mem_cons_self)).symm.trans waiting
  · cases hx
    rfl

/-- R29: what follows a completion was behind the head, so nothing is outstanding but what is issued now. -/
theorem exec_justIssued {i : Instr} {s t : State} {c : Completion} (tail : TailQueued s.queue)
    (h : exec i s = .next t) (completed : t.out.cpl = some c) : JustIssued t := by
  rcases exec_engineMoves h with ⟨-, -, quiet⟩ | ⟨u, rfl, change, -⟩
  · cases quiet.symm.trans completed
  · rw [completed] at change
    refine tryIssue_justIssued fun x hx => (tail x ?_).1
    rwa [← change.queue_eq_tail]

/-- R30: one tick is at most one, whatever the width of the timer. -/
theorem elapsed_succ_le_one (c : Config) {since : Nat} (h : since < 2 ^ c.wTime) :
    elapsed c ((since + 1) % 2 ^ c.wTime) since ≤ 1 := by
  have sum : since + 1 + (2 ^ c.wTime - since) = 1 + 2 ^ c.wTime := by omega
  rw [elapsed, Nat.mod_eq_of_lt h, Nat.mod_add_mod, sum, Nat.add_mod_right]
  exact Nat.mod_le ..

/-- R166, R232: the threshold is at least two ticks, so an attempt that begins now outlives the next tick. -/
theorem JustIssued.tick_cpl {s t : State} (just : JustIssued s) (valid : s.config.Valid)
    (inRange : s.now < 2 ^ s.config.wTime) (h : exec .tick s = .next t) : t.out.cpl = none := by
  obtain ⟨-, -, -, -, two, -⟩ := valid
  have early : ∀ x rest, s.queue = x :: rest → timedOut s.config (nextTime s) x = false := by
    refine fun x rest hq => Bool.eq_false_iff.2 fun late => ?_
    obtain ⟨waiting, reached⟩ := (timedOut_iff ..).1 late
    rw [just x rest hq waiting] at reached
    exact absurd (two.trans reached) (Nat.not_le.2 (Nat.lt_succ_of_le (elapsed_succ_le_one _ inRange)))
  rw [exec_tick_of_not_timedOut early] at h
  cases h
  rw [tryIssue_out]
  rfl

/-! ### The completions of a cycle -/

/-- The completions of a sequence of events, in order. -/
def completions (es : List Instr) (s : State) : List Completion := (outputsOf es s).filterMap (·.cpl)

theorem completions_cons {i : Instr} {s t : State} (h : exec i s = .next t) (is : List Instr) :
    completions (i :: is) s = t.out.cpl.toList ++ completions is t := by
  rw [completions, outputsOf_cons h, List.filterMap_cons]
  cases t.out.cpl <;> rfl

/-- Requests and bytes complete nothing. -/
theorem completions_output_eq_nil (p : Pins) (s t : State) :
    completions (requestEvents p s ++ byteEvents p s) t = [] := by
  refine List.filterMap_eq_nil_iff.2 (forall_mem_outputsOf (fun i hi u v hv => ?_) t)
  rcases List.mem_append.1 hi with hi | hi
  · have asked := mem_requestEvents hi
    obtain ⟨unfed, noTick, -⟩ := ne_of_isRequest asked
    exact exec_cpl_eq_none hv noTick (not_delivers unfed (receivedFrame_of_isRequest asked u.config))
  · cases mem_byteEvents hi
    exact exec_cpl_eq_none hv nofun (not_delivers rfl rfl)

/-- The completions behind a received byte are those of the tick. -/
theorem completions_laterEvents (p : Pins) {s t u : State} (h : exec .tick t = .next u) :
    completions (laterEvents p s) t = if p.tick then u.out.cpl.toList else [] := by
  cases ticks : p.tick with
  | false => simp [laterEvents, tickEvents, ticks, completions_output_eq_nil]
  | true => simp [laterEvents, tickEvents, ticks, completions_cons h, completions_output_eq_nil]

theorem completions_laterEvents_le_one (p : Pins) (s t : State) : (completions (laterEvents p s) t).length ≤ 1 := by
  obtain ⟨u, hu⟩ := exec_total .tick t
  rw [completions_laterEvents p hu]
  split
  · exact Option.length_toList_le
  · exact Nat.zero_le 1

/-- R208: behind a received byte that completes a transaction nothing is completed. -/
theorem completions_laterEvents_eq_nil {p : Pins} {s t : State} {c : Completion} (inv : s.Inv)
    (h : exec (decodeByte p.rxData) s = .next t) (completed : t.out.cpl = some c) :
    completions (laterEvents p s) t = [] := by
  obtain ⟨u, hu⟩ := exec_total .tick t
  have invT := exec_inv inv (wf_decodeByte ..) h
  have quiet := (exec_justIssued inv.tail h completed).tick_cpl invT.config invT.time hu
  rw [completions_laterEvents p hu, quiet]
  exact ite_self []

/-- Settles O50: the received byte may complete or the tick, and the tick does not where the byte did. -/
theorem oneCompletionPerCycle : Obligations.OneCompletionPerCycle := by
  intro p s inv
  show (completions (cycleEvents p s) s).length ≤ 1
  cases reset : p.rst with
  | true => rw [cycleEvents, if_pos reset]; exact Nat.zero_le 1
  | false =>
    cases received : p.rxValid with
    | false => exact cycleEvents_of_not_rxValid reset received s ▸ completions_laterEvents_le_one p s s
    | true =>
      obtain ⟨t, ht⟩ := exec_total (decodeByte p.rxData) s
      rw [cycleEvents_of_rxValid reset received, completions_cons ht]
      cases completed : t.out.cpl with
      | none => exact completions_laterEvents_le_one p s t
      | some c =>
        rw [completions_laterEvents_eq_nil inv ht completed]
        exact le_rfl

/-! ### A response in the cycle of the tick -/

theorem decodeByte_terminator {b : Byte} (hb : b = 0x0D ∨ b = 0x0A) :
    decodeByte b = .feedCr ∨ decodeByte b = .feedLf := by
  rcases hb with rfl | rfl
  · exact .inl rfl
  · exact .inr rfl

/-- R162 to R164: what a matching ACK, NAK or ERR makes of its transaction. -/
theorem responseResult_of_kind {c : Config} {cmd : Byte} {r : CplResult} (codes : c.CodesDistinct)
    (kind : cmd = c.cmdAck ∧ r = .ok ∨ (cmd = c.cmdNak ∨ cmd = c.cmdErr) ∧ r = .rejected) :
    responseResult c cmd = some r := by
  rcases kind with ⟨rfl, rfl⟩ | ⟨rfl | rfl, rfl⟩
  · exact responseResult_ack c
  · exact responseResult_nak codes
  · exact responseResult_err codes

/-- R162 to R164: the terminator of a response shows the frame and completes the head with it. -/
theorem exec_terminator_response {i : Instr} {s : State} {h : Transaction} {rest : List Transaction} {f : Frame}
    {r : CplResult} (term : i = .feedCr ∨ i = .feedLf) (collecting : s.rx.state = .collecting)
    (valid : validate s.rx.nib s.rx.bad = .frame f) (hq : s.queue = h :: rest)
    (outstanding : h.state = .waiting ∨ h.state = .retryPending) (address : f.address = h.address)
    (response : responseResult s.config f.cmd = some r) :
    ∃ t, exec i s = .next t ∧ t.out.rx = some (.frame f) ∧ t.out.cpl = some (completionOf h r (some f)) := by
  have completes := onFrame_completes (s := verdictShown s) hq outstanding address response
  refine ⟨_, (exec_terminator term collecting).1 f valid, ?_, ?_⟩ <;> rw [completes, tryIssue_out]
  · exact congrArg some valid
  · rfl

/-- The ports of a cycle whose received byte shows a result and a completion. -/
theorem clock_shows_first {p : Pins} {s t : State} {r : RxResult} {c : Completion} (noReset : p.rst = false)
    (received : p.rxValid = true) (h : exec (decodeByte p.rxData) s = .next t) (rx : t.out.rx = some r)
    (cpl : t.out.cpl = some c) : ∃ u, clock p s = .next u ∧ u.out.cpl = some c ∧ u.out.rx = some r := by
  obtain ⟨v, run⟩ := runEvents_total (cycleEvents p s) s
  obtain ⟨u, cycle, -, -, -, out⟩ := runCycle_eq run
  refine ⟨u, cycle, ?_, ?_⟩ <;> rw [out, cycleEvents_of_rxValid noReset received, outputsOf_cons h]
  · rw [cycleOutputs_port (·.cpl) rfl fun _ _ => rfl, List.findSome?_cons_of_isSome (by simp [cpl]), cpl]
  · rw [cycleOutputs_port (·.rx) rfl fun _ _ => rfl, List.findSome?_cons_of_isSome (by simp [rx]), rx]

/-- Settles O51: the terminator comes first and completes the head, and behind it the tick completes nothing. -/
theorem responseBeatsTimeoutInOneCycle : Obligations.ResponseBeatsTimeoutInOneCycle := by
  intro p s h rest f r inv noReset received terminator _ collecting valid hq waiting address kind c
  have ⟨codes, _⟩ := inv.config
  obtain ⟨t, ht, rx, cpl⟩ := exec_terminator_response (decodeByte_terminator terminator) collecting valid hq
    (.inl waiting) address (responseResult_of_kind codes kind)
  obtain ⟨u, cycle, shownCpl, shownRx⟩ := clock_shows_first noReset received ht rx cpl
  refine ⟨u, cycle, shownCpl, shownRx, ?_⟩
  show completions (cycleEvents p s) s = [c]
  rw [cycleEvents_of_rxValid noReset received, completions_cons ht, completions_laterEvents_eq_nil inv ht cpl, cpl]
  rfl

end Sys2Proof.Machine

/-! ## RESET in its cycle (R230) -/

namespace Sys2Proof.Machine

/-- R230: in a cycle with `rst` no other input is an event. -/
theorem cycleEvents_of_rst {p : Pins} (rst : p.rst = true) (s : State) : cycleEvents p s = [.reset] :=
  if_pos rst

/-- Settles O1: the fields are those of R40's table, and the cycle's only event is RESET itself. -/
theorem resetEmptiesTheBlock : Obligations.ResetEmptiesTheBlock := by
  intro s
  refine ⟨?_, fun p rst => ?_⟩
  · obtain ⟨t, ht⟩ := exec_total .reset s
    obtain ⟨rx, tx, queue, now, out, -⟩ := reset_fields (.inr ht)
    exact ⟨t, ht, congrArg Deframer.state rx, congrArg Deframer.nib rx, congrArg Deframer.bad rx, tx, queue, now,
      congrArg Outputs.cpl out, congrArg Outputs.reqStatus out, congrArg Outputs.txData out, congrArg Outputs.rx out,
      congrArg Outputs.encoded out, parametersNeverChange _ s t ht⟩
  · rw [clock, cycleEvents_of_rst rst, runCycle]

end Sys2Proof.Machine
